-- ==== Sys2Proof/Word.lean ====
section
/-! DEFINITION. Words of the GPK-4410 and the small index types of its tables. -/

namespace Sys2Proof

/-- One byte of the exchange area, of a payload, of a cell or of a feed message. -/
abbrev Byte := BitVec 8

/-- A 16-bit field. -/
abbrev Half := BitVec 16

/-- A 32-bit register, address or station time. -/
abbrev Word := BitVec 32

/-- One of the four streams (00_scope.md section 6). -/
abbrev StreamId := Fin 4

/-- A shadow entry number, 0 to 63 (R60). -/
abbrev ShadowId := Fin 64

/-- A lane number, 0 to 95 (R62). -/
abbrev LaneId := Fin 96

/-- An entry of the announcement table, 0 to 15 (R91). -/
abbrev AnnId := Fin 16

/-- An entry of the feed notice store, 0 to 15 (R136). -/
abbrev StoreId := Fin 16

/-- One of the eight announcement request records (R106). -/
abbrev RequestId := Fin 8

/-- An item slot, 0 to 255 (R24). -/
abbrev SlotId := BitVec 8

end Sys2Proof
end

