-- ==== Sys2Proof/Syntax.lean ====
section
/-! DEFINITION. The commands of the GPK-4410: one constructor per row of spec/opcode_table.json, with the
operands the event brings in from outside the part. -/

namespace Sys2Proof

/-- What the board does around one command that uses the local bus.
`hostWrites`: the bytes the host has written to shared memory since the last command, in order; they are in
memory before the command's first transfer (log 4).
`berr`: how the command's transfers end, in the order they are made; `none` is a transfer that ends well,
`some k` one that ends with BERR after `k` of its bytes; transfers beyond the list end well (R26, log 5). -/
structure Env where
  hostWrites : List (Word × Byte)
  berr : List (Option Nat)
  deriving DecidableEq, Repr

/-- A board that writes nothing and raises no BERR. -/
def Env.quiet : Env := ⟨[], []⟩

/-- The work that R175 lets complete when STOP is accepted within it: a visit, a poll of one of the three kinds of
request record, or the engine's action on a message. -/
inductive Work where
  | visit
  | announcements
  | clockSet
  | windowCheck
  | message
  deriving DecidableEq, Repr

/-- Work under way at the acceptance of STOP: which it is, what the board does around all of its transfers, and how many
of them have been made when STOP is accepted (R175, log 45). -/
structure UnderWay where
  work : Work
  env : Env
  made : Nat
  deriving DecidableEq, Repr

/-- The commands, in the order of the table. -/
inductive Instr where
  /-- START, R170. -/
  | start
  /-- START_COMPLETION, R172, R173. -/
  | startCompletion (env : Env)
  /-- STOP, R175: with the work that is under way at its acceptance and completes in its first step, if any; none where
  nothing is said of it. -/
  | stop (underWay : Option UnderWay := none)
  /-- STOP_TEARDOWN, R175. -/
  | stopTeardown (env : Env)
  /-- RESUME, R163. -/
  | resume
  /-- RELOAD, R174. -/
  | reload
  /-- RELOAD_REPLACE, R174. -/
  | reloadReplace (env : Env)
  /-- ACK, R179. -/
  | ack
  /-- RESET, R176. -/
  | reset
  /-- COMMAND_REFUSED, R169: a write to CMD whose code is 0 or 7 to 255; `value` is the value written. -/
  | commandRefused (value : Word)
  /-- RST_N, R176. -/
  | rstN
  /-- BASE_WRITE, R167. -/
  | baseWrite (value : Word)
  /-- COND_WRITE, R153. -/
  | condWrite (value : Word)
  /-- REGISTER_WRITE_IGNORED, R166: a write to IDENT, STAT or an unused offset. -/
  | registerWriteIgnored (offset : Byte) (value : Word)
  /-- TICK_100MS, R142. -/
  | tick100ms
  /-- TICK_1S, R142. -/
  | tick1s
  /-- SWEEP_VISIT, R32. -/
  | sweepVisit (env : Env)
  /-- ANNOUNCEMENT_POLL, R107. -/
  | announcementPoll (env : Env)
  /-- HOLD_EXPIRED, R105. -/
  | holdExpired (env : Env)
  /-- CLOCK_SET_POLL, R146. -/
  | clockSetPoll (env : Env)
  /-- WINDOW_CHECK_POLL, R57. -/
  | windowCheckPoll (env : Env)
  /-- STATUS_WRITE, R180. -/
  | statusWrite (env : Env)
  /-- SLOT_OPEN on a stream, R18. -/
  | slotOpen (stream : StreamId)
  /-- SLOT_DECISION for a stream, R71. -/
  | slotDecision (stream : StreamId) (env : Env)
  /-- FETCH_END on a stream, R78. -/
  | fetchEnd (stream : StreamId) (env : Env)
  /-- STREAM_OFF, R23. -/
  | streamOff (stream : StreamId)
  /-- FEED_CHARACTER, R122: the data byte, the parity bit (not looked at without parity), the mark bit and the
  stop bit as sampled. -/
  | feedCharacter (data : Byte) (parity mark stop : Bool) (env : Env)
  /-- FEED_LOST, R130. -/
  | feedLost (env : Env)
  /-- FEED_MESSAGE_ACTION, R132. -/
  | feedMessageAction (env : Env)
  /-- NOTICE_LIFE_EXPIRED, R140. -/
  | noticeLifeExpired
  /-- ENTER_HELD, R159. -/
  | enterHeld (env : Env)
  /-- BIT_TIME on a stream, R17. -/
  | bitTime (stream : StreamId)
  deriving DecidableEq, Repr

end Sys2Proof
end

