-- ==== Sys2Proof/WellFormed.lean ====
section
/-! DEFINITION. Which command terms stand for a row of the table. -/

namespace Sys2Proof

/-- The CMD codes that no command has (R169): 0 and 7 to 255. -/
def refusedCode (code : Byte) : Bool :=
  code.toNat == 0 || decide (7 ≤ code.toNat)

/-- The register offsets whose writes are ignored (R166, R167): IDENT, STAT and the unused 14H to 1CH. -/
def ignoredOffset (offset : Byte) : Bool :=
  offset == 0x00#8 || offset == 0x0C#8 || offset == 0x14#8 || offset == 0x18#8 || offset == 0x1C#8

/-- A well-formed command: COMMAND_REFUSED carries a refused code, REGISTER_WRITE_IGNORED an offset whose
writes are ignored; every other operand value is admitted (log 27). -/
def Instr.wf : Instr → Bool
  | .commandRefused value => refusedCode (value.setWidth 8)
  | .registerWriteIgnored offset _ => ignoredOffset offset
  | .start | .startCompletion _ | .stop _ | .stopTeardown _ | .resume | .reload | .reloadReplace _ | .ack
  | .reset | .rstN | .baseWrite _ | .condWrite _ | .tick100ms | .tick1s | .sweepVisit _ | .announcementPoll _
  | .holdExpired _ | .clockSetPoll _ | .windowCheckPoll _ | .statusWrite _ | .slotOpen _ | .slotDecision _ _
  | .fetchEnd _ _ | .streamOff _ | .feedCharacter _ _ _ _ _ | .feedLost _ | .feedMessageAction _
  | .noticeLifeExpired | .enterHeld _ | .bitTime _ => true

end Sys2Proof
end

