-- ==== Sys2Proof/Decode.lean ====
section
/-! DEFINITION. Reading commands from words and from register writes. No row of spec/opcode_table.json gives
bits, so no word of the table's numbering spells a command. -/

namespace Sys2Proof

/-- The command that a word spells by the table's bits: none, since no row has bits (98_reader.md). -/
def decodeTableWord (_nbits _w : Nat) : Option Instr := none

/-- The command of a write of `value` to CMD (R167): its code is the low 8 bits. A STOP is one with no work under way;
what is under way is the block's and not the word's (log 45). -/
def Instr.ofCommand (value : Word) : Instr :=
  match (value.setWidth 8 : Byte).toNat with
  | 1 => .start
  | 2 => .stop none
  | 3 => .resume
  | 4 => .reload
  | 5 => .ack
  | 6 => .reset
  | _ => .commandRefused value

/-- The command of a write of `value` at an offset of the register window (R166, R167); none where the window
has no register. -/
def Instr.ofRegisterWrite (offset : Byte) (value : Word) : Option Instr :=
  match offset.toNat with
  | 0x04 => some (.baseWrite value)
  | 0x08 => some (Instr.ofCommand value)
  | 0x10 => some (.condWrite value)
  | 0x00 => some (.registerWriteIgnored offset value)
  | 0x0C => some (.registerWriteIgnored offset value)
  | 0x14 => some (.registerWriteIgnored offset value)
  | 0x18 => some (.registerWriteIgnored offset value)
  | 0x1C => some (.registerWriteIgnored offset value)
  | _ => none

end Sys2Proof
end

