-- ==== Sys2Proof/Config.lean ====
section
/-! DEFINITION. What one part fixes: identity, the layout of the exchange area (R24, R184) and the limits
the rules name, and the one value of the manual that is left free (INVENTORY.md, What the manual leaves open). -/

namespace Sys2Proof.Config

/-- IDENT (R166). -/
def ident : Word := 0x44100001#32

/-- What a byte of board memory reads as that nothing has written. DESIGN CHOICE, unsafe (log 6). -/
def unlistedByte : Byte := 0

/-- FREE VALUE (log 35): the divisor Ds that START computes for INTERNAL stream n, not enabled, at a configured bit rate
of 0, where the quotient of R21 does not exist; `held` is the divisor that the stream held before. -/
opaque divisorAtRateZero (n : StreamId) (fclk held : Nat) : Nat

/-- Header offsets of R184. -/
def offGeneral : Nat := 0x0000
def offStreams : Nat := 0x0040
def offWindows : Nat := 0x0080
def offCorrections : Nat := 0x00E0
def offReadPosition : Nat := 0x00F0
def offWritePosition : Nat := 0x00F2
def offClockSet : Nat := 0x0100
def offWindowCheck : Nat := 0x0110
def offRequests : Nat := 0x0140
def offFault : Nat := 0x0200
def offStatus : Nat := 0x0240

/-- Offsets of the notify mask and of the halt mask in the general configuration (R185). -/
def offNotifyMask : Nat := 0x0007
def offHaltMask : Nat := 0x0008

/-- Offsets of the item table and of the air log (R24). -/
def offItems : Nat := 0x0400
def offLog : Nat := 0x3400

/-- Sizes of the item record and of the log record (R24). -/
def itemSize : Nat := 48
def logSize : Nat := 16

/-- Limit of a saturating 32-bit count (R60, R62). -/
def countLimit : Nat := 0xFFFFFFFF

/-- Longest period and delay, in tenths of a second (R34). -/
def maxTenths : Nat := 36000

/-- Longest hold of an announcement, in seconds (R95). -/
def maxHold : Nat := 3600

/-- Bits of a cell (R1). -/
def cellBits : Nat := 96

/-- Limits of a stream's waiting list (R92), of the visits owed (R30) and of the interval counter (R113). -/
def maxWaiting : Nat := 4
def maxVisitsOwed : Nat := 256
def maxInterval : Nat := 64

end Sys2Proof.Config
end

