-- ==== Sys2Proof/Machine/State.lean ====
section
/-! DEFINITION. The state of the GPK-4410, block by block as 00_scope.md section 2.1 lists them, its outcomes and
its reset state. -/

namespace Sys2Proof.Machine

/-! ## Control unit -/

/-- The part states of R166. -/
inductive PartState where
  | stopped
  | starting
  | running
  | held
  | stopping
  deriving DecidableEq, Repr

/-- The config errors of R166, R170. -/
inductive ConfigError where
  | none
  | badFormat
  | badClock
  | noStream
  | streamRate
  | feedRate
  | boardBus
  deriving DecidableEq, Repr

/-- The control unit (R168, R174). `stopFrom` is the part state at the acceptance of the last STOP, which the
STOPPED record reports (R178); `stopBerr` says that a transfer of work that completed in the first step of that STOP met
BERR after the acceptance, so that the teardown makes no write (R175). -/
structure Control where
  part : PartState
  base : Word
  interrupt : Bool
  refused : Bool
  configError : ConfigError
  notifyMask : BitVec 6
  reloading : Bool
  stopFrom : PartState
  stopBerr : Bool
  deriving DecidableEq, Repr

/-- Feed parity (R120). -/
inductive Parity where
  | none
  | even
  | odd
  deriving DecidableEq, Repr

/-- The general configuration as START took it, effective values (R171, R185), and the feed divisor Df (R121). -/
structure GeneralConfig where
  fclk : Nat
  parity : Parity
  networkCode : Half
  feedRate : Nat
  defaultHold : Nat
  silenceLimit : Nat
  feedDivisor : Nat
  deriving DecidableEq, Repr

/-! ## Condition unit -/

/-- The thirteen conditions (R152). -/
inductive Condition where
  | boardBus
  | fetchBus
  | fetchWindow
  | underrun
  | textSubst
  | textTrunc
  | periodClamp
  | feedChar
  | feedOverrun
  | feedMsg
  | feedDrop
  | logFull
  | valueClamp
  deriving DecidableEq, Repr

/-- The fields of the fault record that depend on the cause (R158). `stream` none, `slot` FFH and `lane` FFH are
the FFH of the table. -/
structure FaultWhere where
  stream : Option StreamId
  slot : Byte
  lane : Byte
  address : Word
  deriving DecidableEq, Repr

/-- A halt pending with its captured fault values (R152, R158). -/
structure Capture where
  cause : Condition
  place : FaultWhere
  time : Word
  cells : Word
  deriving DecidableEq, Repr

/-- The condition unit (R152). Bit `code - 1` of a mask is the condition's. -/
structure CondUnit where
  flags : BitVec 13
  haltMask : BitVec 13
  haltCause : Option Condition
  haltPending : Option Capture
  deriving DecidableEq, Repr

/-! ## Memory port and text converter -/

/-- One access window, its bounds already adjusted (R48, R49). -/
structure Window where
  low : Word
  high : Word
  desk : BitVec 4
  enabled : Bool
  global : Bool
  deriving DecidableEq, Repr

/-- The memory port's own state (R48, R57). -/
structure MemoryPort where
  windows : Vector Window 8
  checkTaken : Byte
  deriving DecidableEq, Repr

/-- One correction entry of the text converter (R12). -/
structure Correction where
  host : Byte
  air : Byte
  deriving DecidableEq, Repr

/-! ## Item sweep -/

/-- Admission notes (R36, R192). -/
inductive Note where
  | none
  | waitShadow
  | waitLanes
  | waitLoad
  deriving DecidableEq, Repr

/-- The item sweep (R30). -/
structure Sweep where
  position : SlotId
  owed : Nat
  notes : Vector Note 256
  deriving DecidableEq, Repr

/-! ## Carousel scheduler -/

/-- Item kinds (R34). -/
inductive ItemKind where
  | name
  | notice
  | sibling
  | generic
  deriving DecidableEq, Repr

/-- Item request outcomes (R39, R192). -/
inductive ItemOutcome where
  | none
  | done
  | refusedLoad
  | ignored
  deriving DecidableEq, Repr

/-- Why a lane or an item is closing (R62, R64); `unreasoned` is a feed-notice lane's (R88). -/
inductive Closing where
  | withdrawn
  | expired
  | disowned
  | countDone
  | unreasoned
  deriving DecidableEq, Repr

/-- Reasons written at a retirement (R44). -/
inductive RetireReason where
  | withdrawn
  | expired
  | countDone
  | disowned
  | orphaned
  | stopped
  deriving DecidableEq, Repr

/-- Reject reasons of an admission (R38). -/
inductive RejectReason where
  | badKind
  | badLength
  | noStream
  | badPeriod
  | badTime
  | tooLate
  | window
  | wrap
  | overload
  deriving DecidableEq, Repr

/-- A shadow entry in use (R60). -/
structure Shadow where
  slot : SlotId
  kind : ItemKind
  cls : Nat
  desk : BitVec 4
  feedName : Bool
  address : Word
  length : Nat
  m : Nat
  period : Nat
  notBefore : Word
  expiry : Word
  limit : Nat
  taken : Byte
  outcome : ItemOutcome
  closing : Option Closing
  airTotal : Nat
  slipTotal : Nat
  lastAired : Word
  deriving DecidableEq, Repr

/-- What a lane airs (R62). -/
inductive Source where
  | item (e : ShadowId)
  | notice (j : StoreId)
  deriving DecidableEq, Repr

/-- A lane's repetition (R62, R63): none, waiting for its fetch, or with parts still to form. -/
inductive Repetition where
  | idle
  | fetching
  | parts (left : Nat)
  deriving DecidableEq, Repr

/-- A lane in use (R62). `fresh`: no slot of its stream has opened since the lane was created (R37). -/
structure Lane where
  source : Source
  stream : StreamId
  cls : Nat
  period : Nat
  m : Nat
  countdown : Int
  air : Nat
  load : Nat
  repetition : Repetition
  closing : Option Closing
  fresh : Bool
  deriving DecidableEq, Repr

/-- The carousel scheduler (R60, R62, R67). -/
structure Scheduler where
  shadow : Vector (Option Shadow) 64
  lanes : Vector (Option Lane) 96
  committed : Vector Nat 4
  deriving DecidableEq, Repr

/-! ## Stream output units -/

/-- Where a stream's bit clock comes from (R15). -/
inductive BitClock where
  | extern
  | intern
  deriving DecidableEq, Repr

/-- A stream's configuration copy, effective values (R15, R171). -/
structure StreamConfig where
  enabled : Bool
  source : BitClock
  variant : BitVec 5
  region : Byte
  switchThreshold : Nat
  quietThreshold : Nat
  feedCeiling : Nat
  burst : Nat
  interval : Nat
  rate : Nat
  ceiling : Nat
  deriving DecidableEq, Repr

/-- Kinds of cells (R1). -/
inductive CellKind where
  | fill
  | name
  | alert
  | notice
  | clock
  | sibling
  | generic
  deriving DecidableEq, Repr

/-- The part field of a cell (R3). -/
structure PartField where
  last : Bool
  index : BitVec 3
  deriving DecidableEq, Repr

/-- A formed cell (R2); its twelve bytes with the check word are `AirCell.bytes`. -/
structure AirCell where
  kind : CellKind
  part : PartField
  level : BitVec 3
  variant : BitVec 5
  payload : Vector Byte 8
  deriving DecidableEq, Repr

/-- A part of a repetition that waits in the staging buffer (R15, R79). -/
structure StagedPart where
  kind : CellKind
  part : PartField
  payload : Vector Byte 8
  deriving DecidableEq, Repr

/-- The cell buffer (R15). -/
inductive CellBuffer where
  | empty
  | forming
  | full (cell : AirCell)
  deriving DecidableEq, Repr

/-- The shifter's cell, the bits of it already sent, and the clock source and divisor in force when it began;
`stale` once a reset has ended the run the cell belongs to (R15, R23). -/
structure Shifter where
  cell : AirCell
  sent : Nat
  source : BitClock
  divisor : Nat
  stale : Bool
  deriving DecidableEq, Repr

/-- Output state (R15). -/
inductive OutputState where
  | off
  | live
  deriving DecidableEq, Repr

/-- A payload fetch in progress: its lane and what R76 keeps at the selection. -/
structure Fetch where
  lane : LaneId
  countdown : Int
  air : Nat
  slips : Nat
  deriving DecidableEq, Repr

/-- A stream output unit (R15). `asked`: a slot decision asked for and not yet taken (R18). `phase`: cycles of CLK
since the last internal bit clock edge (R17, log 20). -/
structure StreamUnit where
  output : OutputState
  config : StreamConfig
  divisor : Nat
  buffer : CellBuffer
  shifter : Option Shifter
  staging : List StagedPart
  cellCount : Word
  burst : Nat
  interval : Nat
  lastMinute : Option Nat
  asked : Bool
  fetch : Option Fetch
  phase : Nat
  deriving DecidableEq, Repr

/-! ## Announcement controller -/

/-- Origins of announcements and of the station clock (R91, R144). -/
inductive Origin where
  | board
  | feed
  deriving DecidableEq, Repr

/-- An announcement in the table (R91). -/
structure Announcement where
  origin : Origin
  number : Byte
  kind : BitVec 4
  level : Nat
  duration : Nat
  hold : Nat
  mask : BitVec 4
  beginTime : Word
  deriving DecidableEq, Repr

/-- A position on a stream (R92). -/
structure Position where
  entry : AnnId
  level : Nat
  arrival : Nat
  deriving DecidableEq, Repr

/-- A stream's positions (R92): the suspended stack with its top first, the waiting list with its head first. -/
structure AnnStream where
  current : Option Position
  suspended : List Position
  waiting : List Position
  arrivals : Nat
  deriving DecidableEq, Repr

/-- Outcomes of announcement requests (R108). -/
inductive AnnOutcome where
  | none
  | begun
  | queued
  | renewed
  | ended
  | notFound
  | refusedTable
  | refusedStreams
  | bad
  deriving DecidableEq, Repr

/-- An answer owed for a request record (R106). -/
structure AnnOwed where
  outcome : AnnOutcome
  number : Byte
  deriving DecidableEq, Repr

/-- The announcement controller (R91, R92, R106). -/
structure AnnControl where
  table : Vector (Option Announcement) 16
  streams : Vector AnnStream 4
  taken : Vector Byte 8
  owed : Vector (Option AnnOwed) 8
  deriving DecidableEq, Repr

/-! ## Feed receiver -/

/-- Receiver states (R123). -/
inductive ReceiverState where
  | hunt
  | collect
  | skip
  deriving DecidableEq, Repr

/-- Feed states (R123). -/
inductive FeedState where
  | silent
  | live
  | lost
  deriving DecidableEq, Repr

/-- The character sampler (R122): waiting for a sample of 1, waiting for a fall, `count` samples into the start
bit, or `count` samples after the last sampled bit with the bits so far, oldest first. -/
inductive Sampler where
  | waitHigh
  | waitFall
  | startBit (count : Nat)
  | bits (count : Nat) (got : List Bool)
  deriving DecidableEq, Repr

/-- A completed message with its matched set (R123, R126). -/
structure FeedMessage where
  type : Byte
  body : List Byte
  matched : BitVec 4
  deriving DecidableEq, Repr

/-- The feed receiver (R123). `prescale`: cycles of CLK since the last sample (R121). -/
structure Receiver where
  active : Bool
  state : ReceiverState
  matched : BitVec 4
  assembly : List Byte
  ready : Option FeedMessage
  feed : FeedState
  silence : Nat
  sampler : Sampler
  prescale : Nat
  deriving DecidableEq, Repr

/-! ## Feed message engine -/

/-- Feed name states (R133). -/
inductive NameState where
  | none
  | current
  | kept
  deriving DecidableEq, Repr

/-- A stream's feed name (R133). -/
structure FeedName where
  codes : Vector Byte 16
  state : NameState
  deriving DecidableEq, Repr

/-- What a HELD entry of the feed notice store holds (R136). -/
structure FeedNotice where
  id : Half
  urgency : Nat
  location : Half
  event : Half
  extent : Byte
  flags : Byte
  text : List Byte
  life : Nat
  deriving DecidableEq, Repr

/-- An entry of the feed notice store (R136). -/
inductive StoreEntry where
  | free
  | held (notice : FeedNotice)
  | releasing
  deriving DecidableEq, Repr

/-- The feed message engine (R133, R136). -/
structure Engine where
  names : Vector FeedName 4
  store : Vector StoreEntry 16
  deriving DecidableEq, Repr

/-! ## Time base and station clock -/

/-- Clock source (R144). -/
inductive ClockSource where
  | localOnly
  | feed
  | auto
  deriving DecidableEq, Repr

/-- Outcomes of the clock-set record (R146). -/
inductive ClockOutcome where
  | none
  | done
  | ignored
  deriving DecidableEq, Repr

/-- An answer owed for the clock-set record (R146). -/
structure ClockOwed where
  outcome : ClockOutcome
  number : Byte
  deriving DecidableEq, Repr

/-- The time base (R142) and what its ticks leave to be done: a 1 s tick due (log 9), and the three polls and the
status write due (R143, log 8). -/
structure TimeBase where
  cycles : Nat
  tenths : Nat
  secondDue : Bool
  annDue : Bool
  clockDue : Bool
  windowDue : Bool
  statusDue : Bool
  deriving DecidableEq, Repr

/-- The station clock (R144, R146). `origin` none is UNSET. -/
structure StationClock where
  origin : Option Origin
  time : Word
  offset : Int
  source : ClockSource
  taken : Byte
  owed : Option ClockOwed
  deriving DecidableEq, Repr

/-! ## The machine -/

/-- Board memory: the bytes that differ from `Config.unlistedByte`, addresses strictly rising. -/
abbrev Memory := List Host.Cell

/-- The state of the part, of the memory it shares with the host, and of the commands that wait.
`bus` holds how the transfers still to come of the command in progress end; it is empty between commands (log 5).
`feedIn` holds the samples FEED_IN will show, next first; past its end the line rests at 1 (log 26).
`writePosition` is the log writer's (R177), `corrections` the text converter's (R12). -/
structure State where
  control : Control
  general : GeneralConfig
  conds : CondUnit
  writePosition : BitVec 9
  port : MemoryPort
  corrections : Vector Correction 8
  sweep : Sweep
  sched : Scheduler
  units : Vector StreamUnit 4
  ann : AnnControl
  receiver : Receiver
  engine : Engine
  time : TimeBase
  clock : StationClock
  mem : Memory
  bus : List (Option Nat)
  feedIn : List Bool
  pending : List Instr
  deriving DecidableEq, Repr

/-- The part never stops with a fault: a condition is state (R152), and BERR is an input (R26). -/
inductive Fault where
  deriving DecidableEq, Repr

/-- The refusals of `exec`. -/
inductive Refusal where
  /-- Raised by an arm of `exec` whose command has no meaning yet; no arm raises it. Safe. -/
  | notModelled (mnemonic : String)
  deriving DecidableEq, Repr

/-- What every command answers. -/
abbrev Outcome := Host.Outcome State Fault Refusal

/-! ## Reset values -/

/-- R168. -/
def Control.reset : Control :=
  { part := .stopped, base := 0, interrupt := false, refused := false, configError := .none, notifyMask := 0,
    reloading := false, stopFrom := .stopped, stopBerr := false }

/-- DESIGN CHOICE (log 18): no rule gives these a value before the first START. -/
def GeneralConfig.reset : GeneralConfig :=
  { fclk := 0, parity := .none, networkCode := 0, feedRate := 0, defaultHold := 0, silenceLimit := 0,
    feedDivisor := 0 }

/-- R152. -/
def CondUnit.reset : CondUnit :=
  { flags := 0, haltMask := 0, haltCause := none, haltPending := none }

/-- R48. -/
def Window.reset : Window :=
  { low := 0, high := 0, desk := 0, enabled := false, global := false }

/-- R48, R57. -/
def MemoryPort.reset : MemoryPort :=
  { windows := .replicate 8 Window.reset, checkTaken := 0 }

/-- R12: an air code outside 20H to DFH leaves the entry ignored. -/
def Correction.reset : Correction := { host := 0, air := 0 }

/-- R30. -/
def Sweep.reset : Sweep :=
  { position := 0, owed := 0, notes := .replicate 256 .none }

/-- R60, R62. -/
def Scheduler.reset : Scheduler :=
  { shadow := .replicate 64 none, lanes := .replicate 96 none, committed := .replicate 4 0 }

/-- R15: stream disabled; the other fields are a DESIGN CHOICE (log 18). -/
def StreamConfig.reset : StreamConfig :=
  { enabled := false, source := .extern, variant := 0, region := 0, switchThreshold := 0, quietThreshold := 0,
    feedCeiling := 0, burst := 0, interval := 0, rate := 0, ceiling := 0 }

/-- R15. -/
def StreamUnit.reset : StreamUnit :=
  { output := .off, config := StreamConfig.reset, divisor := 0, buffer := .empty, shifter := none, staging := [],
    cellCount := 0, burst := 0, interval := 0, lastMinute := none, asked := false, fetch := none, phase := 0 }

/-- R92. -/
def AnnStream.reset : AnnStream :=
  { current := none, suspended := [], waiting := [], arrivals := 0 }

/-- R119. -/
def AnnControl.reset : AnnControl :=
  { table := .replicate 16 none, streams := .replicate 4 AnnStream.reset, taken := .replicate 8 0,
    owed := .replicate 8 none }

/-- R123. DESIGN CHOICE (log 26): R123 gives the character sampler and the sampling prescaler no value while the receiver
is inactive; the sampler waits for 1, as it does when the receiver becomes active, and the prescaler is 0. -/
def Receiver.reset : Receiver :=
  { active := false, state := .hunt, matched := 0, assembly := [], ready := none, feed := .silent, silence := 0,
    sampler := .waitHigh, prescale := 0 }

/-- R133: 16 codes 20H. -/
def FeedName.reset : FeedName := { codes := .replicate 16 0x20, state := .none }

/-- R133, R136. -/
def Engine.reset : Engine :=
  { names := .replicate 4 FeedName.reset, store := .replicate 16 .free }

/-- R142. -/
def TimeBase.reset : TimeBase :=
  { cycles := 0, tenths := 0, secondDue := false, annDue := false, clockDue := false, windowDue := false,
    statusDue := false }

/-- R144, R146. -/
def StationClock.reset : StationClock :=
  { origin := none, time := 0, offset := 0, source := .localOnly, taken := 0, owed := none }

/-- The machine right after RST_N at power-on: every block in its reset state (R176), no command waiting, board
memory with nothing listed. -/
def State.reset : State :=
  { control := Control.reset, general := GeneralConfig.reset, conds := CondUnit.reset, writePosition := 0,
    port := MemoryPort.reset, corrections := .replicate 8 Correction.reset, sweep := Sweep.reset,
    sched := Scheduler.reset, units := .replicate 4 StreamUnit.reset, ann := AnnControl.reset,
    receiver := Receiver.reset, engine := Engine.reset, time := TimeBase.reset, clock := StationClock.reset,
    mem := [], bus := [], feedIn := [], pending := [] }

end Sys2Proof.Machine
end

