-- ==== Sys2Proof/Machine/Flags.lean ====
section
/-! DEFINITION. The codes of R192 and of the owning rules, and the mask bits of the conditions and log classes. -/

namespace Sys2Proof.Machine

/-- Part state codes of STAT (R166). -/
def PartState.code : PartState → Nat
  | .stopped => 0
  | .starting => 1
  | .running => 2
  | .held => 3
  | .stopping => 4

/-- The states in which the streams are served and the ticks are counted. -/
def PartState.onAir : PartState → Bool
  | .running | .held => true
  | .stopped | .starting | .stopping => false

/-- Config error codes of STAT (R166). -/
def ConfigError.code : ConfigError → Nat
  | .none => 0
  | .badFormat => 1
  | .badClock => 2
  | .noStream => 3
  | .streamRate => 4
  | .feedRate => 5
  | .boardBus => 6

/-- Condition codes 1 to 13 (R152). -/
def Condition.code : Condition → Nat
  | .boardBus => 1
  | .fetchBus => 2
  | .fetchWindow => 3
  | .underrun => 4
  | .textSubst => 5
  | .textTrunc => 6
  | .periodClamp => 7
  | .feedChar => 8
  | .feedOverrun => 9
  | .feedMsg => 10
  | .feedDrop => 11
  | .logFull => 12
  | .valueClamp => 13

/-- The condition's bit of COND and of the halt mask: bit (code - 1) (R152). -/
def Condition.bit (c : Condition) : BitVec 13 := 1#13 <<< (c.code - 1)

/-- The condition's bit is set in a mask. -/
def Condition.inMask (c : Condition) (mask : BitVec 13) : Bool := mask.getLsbD (c.code - 1)

/-- Code of a condition or of none, as STAT shows the halt cause (R166). -/
def causeCode : Option Condition → Nat
  | none => 0
  | some c => c.code

/-- Admission note codes (R192). -/
def Note.code : Note → Byte
  | .none => 0
  | .waitShadow => 1
  | .waitLanes => 2
  | .waitLoad => 3

/-- Item request outcome codes (R192). -/
def ItemOutcome.code : ItemOutcome → Byte
  | .none => 0
  | .done => 1
  | .refusedLoad => 2
  | .ignored => 3

/-- Retire reason codes (R44). -/
def RetireReason.code : RetireReason → Byte
  | .withdrawn => 16
  | .expired => 17
  | .countDone => 18
  | .disowned => 19
  | .orphaned => 20
  | .stopped => 21

/-- Reject reason codes (R38). -/
def RejectReason.code : RejectReason → Byte
  | .badKind => 1
  | .badLength => 2
  | .noStream => 3
  | .badPeriod => 4
  | .badTime => 5
  | .tooLate => 6
  | .window => 7
  | .wrap => 8
  | .overload => 9

/-- The retire reason an item takes from the lane whose freeing emptied its entry (R44, R61). A lane of an item
never closes without a reason (R62); the last arm is not reached. -/
def Closing.retireReason : Closing → RetireReason
  | .withdrawn => .withdrawn
  | .expired => .expired
  | .disowned => .disowned
  | .countDone => .countDone
  | .unreasoned => .disowned

/-- Item state codes of an item record's byte 0 (R192). -/
def itemPosted : Byte := 1
def itemActive : Byte := 2
def itemRejected : Byte := 3
def itemRetired : Byte := 4

/-- Announcement outcome codes (R108). -/
def AnnOutcome.code : AnnOutcome → Byte
  | .none => 0
  | .begun => 1
  | .queued => 2
  | .renewed => 3
  | .ended => 4
  | .notFound => 5
  | .refusedTable => 6
  | .refusedStreams => 7
  | .bad => 8

/-- Clock-set outcome codes (R146). -/
def ClockOutcome.code : ClockOutcome → Byte
  | .none => 0
  | .done => 1
  | .ignored => 3

/-- Cell kind codes (R1). -/
def CellKind.code : CellKind → BitVec 4
  | .fill => 0
  | .name => 1
  | .alert => 2
  | .notice => 3
  | .clock => 4
  | .sibling => 5
  | .generic => 6

/-- The clock state byte of FILL cells and of CLOCK_SET records: 0 UNSET, 1 BOARD, 2 FEED (R5, R10, R149). -/
def originCode : Option Origin → Byte
  | none => 0
  | some .board => 1
  | some .feed => 2

/-- Feed name state codes of a stream status record (R189). -/
def NameState.code : NameState → Nat
  | .none => 0
  | .current => 1
  | .kept => 2

/-- Log record kinds (R192). -/
inductive LogKind where
  | itemAdmitted
  | itemRejected
  | itemRetired
  | itemDeferred
  | alertBegun
  | alertOnStream
  | alertSuspended
  | alertEnded
  | alertRefused
  | feedOk
  | feedLost
  | feedNoticeDropped
  | clockSet
  | fault
  | started
  | stopped
  deriving DecidableEq, Repr

/-- Kind codes (R192). -/
def LogKind.code : LogKind → Byte
  | .itemAdmitted => 0x01
  | .itemRejected => 0x02
  | .itemRetired => 0x03
  | .itemDeferred => 0x04
  | .alertBegun => 0x10
  | .alertOnStream => 0x11
  | .alertSuspended => 0x12
  | .alertEnded => 0x13
  | .alertRefused => 0x14
  | .feedOk => 0x20
  | .feedLost => 0x21
  | .feedNoticeDropped => 0x22
  | .clockSet => 0x30
  | .fault => 0x40
  | .started => 0x50
  | .stopped => 0x51

/-- The notify mask bit of the kind's class (R178). -/
def LogKind.classBit : LogKind → Nat
  | .itemAdmitted | .itemRejected | .itemRetired | .itemDeferred => 0
  | .alertBegun | .alertOnStream | .alertSuspended | .alertEnded | .alertRefused => 1
  | .feedOk | .feedLost | .feedNoticeDropped => 2
  | .clockSet => 3
  | .fault => 4
  | .started | .stopped => 5

/-- Reasons of ALERT_ENDED (R116). -/
inductive EndReason where
  | ended
  | endAll
  | expired
  | feedLost
  | displaced
  deriving DecidableEq, Repr

/-- Their codes (R116). -/
def EndReason.code : EndReason → Byte
  | .ended => 1
  | .endAll => 2
  | .expired => 3
  | .feedLost => 4
  | .displaced => 5

/-- Why an announcement became CURRENT, the reason of ALERT_ON_STREAM (R116). -/
inductive OnReason where
  | begun
  | resume
  | promote
  deriving DecidableEq, Repr

/-- Their codes (R116). -/
def OnReason.code : OnReason → Byte
  | .begun => 1
  | .resume => 2
  | .promote => 3

/-- Reasons of FEED_NOTICE_DROPPED (R141). -/
inductive DropReason where
  | noLane
  | storeFull
  | replaced
  | reRate
  deriving DecidableEq, Repr

/-- Their codes (R141). -/
def DropReason.code : DropReason → Byte
  | .noLane => 1
  | .storeFull => 2
  | .replaced => 3
  | .reRate => 4

end Sys2Proof.Machine
end

