-- ==== Sys2Proof/Machine/Ops.lean ====
section
/-! DEFINITION. The shared operations: bytes and their orders, board memory, bus transfers, conditions and the air
log. Every access of the part to memory and every COND flag goes through these. -/

namespace Sys2Proof.Machine

/-! ## Bytes -/

/-- A byte of a burst, 0 past its end. -/
def byteAt (bs : List Byte) (i : Nat) : Byte := bs.getD i 0

/-- A little-endian 16-bit field (R181). -/
def le16At (bs : List Byte) (i : Nat) : Half := byteAt bs (i + 1) ++ byteAt bs i

/-- A little-endian 32-bit field (R181). -/
def le32At (bs : List Byte) (i : Nat) : Word :=
  byteAt bs (i + 3) ++ byteAt bs (i + 2) ++ byteAt bs (i + 1) ++ byteAt bs i

/-- A 16-bit field sent most significant byte first (R193). -/
def be16At (bs : List Byte) (i : Nat) : Half := byteAt bs i ++ byteAt bs (i + 1)

/-- A 32-bit field sent most significant byte first (R193). -/
def be32At (bs : List Byte) (i : Nat) : Word :=
  byteAt bs i ++ byteAt bs (i + 1) ++ byteAt bs (i + 2) ++ byteAt bs (i + 3)

/-- The bytes of a half, least significant first (R181). -/
def le16 (h : Half) : List Byte := [h.extractLsb' 0 8, h.extractLsb' 8 8]

/-- The bytes of a word, least significant first (R181). -/
def le32 (w : Word) : List Byte :=
  [w.extractLsb' 0 8, w.extractLsb' 8 8, w.extractLsb' 16 8, w.extractLsb' 24 8]

/-- The bytes of a half, most significant first (R1). -/
def be16 (h : Half) : List Byte := [h.extractLsb' 8 8, h.extractLsb' 0 8]

/-- A count that saturates at its limit (00_scope.md section 5). -/
def satAdd (n k limit : Nat) : Nat := min (n + k) limit

/-- A value outside a range is taken as the nearer end (R171). -/
def clampNat (lo hi n : Nat) : Nat := max lo (min n hi)

/-! ## Board memory -/

/-- The byte at an address. -/
def memRead : Memory → Nat → Byte
  | [], _ => Config.unlistedByte
  | (b, v) :: rest, a => if b = a then v else memRead rest a

/-- Write one byte; a byte equal to what an unlisted address reads as is not listed. -/
def memWrite : Memory → Nat → Byte → Memory
  | [], a, v => if v = Config.unlistedByte then [] else [(a, v)]
  | (b, w) :: rest, a, v =>
    if a < b then (if v = Config.unlistedByte then (b, w) :: rest else (a, v) :: (b, w) :: rest)
    else if a = b then (if v = Config.unlistedByte then rest else (a, v) :: rest)
    else (b, w) :: memWrite rest a v

/-- The canonical form: addresses strictly rising from `lo`, no byte listed that an unlisted address reads as. -/
def memWfFrom : Nat → Memory → Bool
  | _, [] => true
  | lo, (a, v) :: rest => decide (lo ≤ a) && (v != Config.unlistedByte) && memWfFrom (a + 1) rest

/-- The canonical form of the whole memory. -/
def Memory.wf (m : Memory) : Bool := memWfFrom 0 m

/-- A run of bytes at rising addresses modulo 2^32 (R25). -/
def memReadRun (m : Memory) (a : Word) : Nat → List Byte
  | 0 => []
  | n + 1 => memRead m a.toNat :: memReadRun m (a + 1) n

/-- Write a run of bytes at rising addresses modulo 2^32 (R25). -/
def memWriteRun (m : Memory) (a : Word) : List Byte → Memory
  | [] => m
  | v :: vs => memWriteRun (memWrite m a.toNat v) (a + 1) vs

/-- The host's writes, in order (log 4). -/
def memHostWrites (m : Memory) : List (Word × Byte) → Memory
  | [] => m
  | (a, v) :: rest => memHostWrites (memWrite m a.toNat v) rest

namespace State

/-! ## Parts of the state -/

/-- A stream's unit. -/
def unit (s : State) (n : StreamId) : StreamUnit := s.units[n]

/-- Replace a stream's unit. -/
def setUnit (n : StreamId) (u : StreamUnit) (s : State) : State := { s with units := s.units.set n u }

/-- Whether stream n is enabled in its configuration copy (R15). -/
def enabled (s : State) (n : StreamId) : Bool := (s.unit n).config.enabled

/-- A lane. -/
def lane (s : State) (i : LaneId) : Option Lane := s.sched.lanes[i]

/-- Replace a lane. -/
def setLane (i : LaneId) (l : Option Lane) (s : State) : State :=
  { s with sched := { s.sched with lanes := s.sched.lanes.set i l } }

/-- A shadow entry. -/
def shadowAt (s : State) (e : ShadowId) : Option Shadow := s.sched.shadow[e]

/-- Replace a shadow entry. -/
def setShadow (e : ShadowId) (sh : Option Shadow) (s : State) : State :=
  { s with sched := { s.sched with shadow := s.sched.shadow.set e sh } }

/-- A stream's committed load (R67). -/
def committed (s : State) (n : StreamId) : Nat := s.sched.committed[n]

/-- Replace a stream's committed load. -/
def setCommitted (n : StreamId) (c : Nat) (s : State) : State :=
  { s with sched := { s.sched with committed := s.sched.committed.set n c } }

/-- A stream's positions (R92). -/
def positions (s : State) (n : StreamId) : AnnStream := s.ann.streams[n]

/-- Replace a stream's positions. -/
def setPositions (n : StreamId) (a : AnnStream) (s : State) : State :=
  { s with ann := { s.ann with streams := s.ann.streams.set n a } }

/-- An entry of the announcement table (R91). -/
def announcement (s : State) (e : AnnId) : Option Announcement := s.ann.table[e]

/-- Replace an entry of the announcement table. -/
def setAnnouncement (e : AnnId) (a : Option Announcement) (s : State) : State :=
  { s with ann := { s.ann with table := s.ann.table.set e a } }

/-- An entry of the feed notice store (R136). -/
def notice (s : State) (j : StoreId) : StoreEntry := s.engine.store[j]

/-- Replace an entry of the feed notice store. -/
def setNotice (j : StoreId) (x : StoreEntry) (s : State) : State :=
  { s with engine := { s.engine with store := s.engine.store.set j x } }

/-- The station time as every reader takes it: 0 while UNSET (R144). -/
def stationTime (s : State) : Word := if s.clock.origin.isSome then s.clock.time else 0

/-- Set interrupt pending (R179). -/
def raiseInterrupt (s : State) : State := { s with control := { s.control with interrupt := true } }

/-! ## Conditions -/

/-- What the fault record says where R158 gives FFH and no address. DESIGN CHOICE (log 37): a BOARD_BUS, for which R158
gives no row, captures these values, and so a cell count of 0. -/
def nowhere : FaultWhere := { stream := none, slot := 0xFF, lane := 0xFF, address := 0 }

/-- Whether a condition of this code would set the halt pending now (R155): RUNNING, no halt pending, and the halt
bit set or the condition BOARD_BUS. -/
def halts (s : State) (c : Condition) : Bool :=
  decide (s.control.part = .running) && s.conds.haltPending.isNone
    && (decide (c = .boardBus) || c.inMask s.conds.haltMask)

/-- The fault values captured for a condition (R158): the station time, and the cell count of the stream named. -/
def capture (s : State) (c : Condition) (w : FaultWhere) : Capture :=
  { cause := c, place := w, time := s.stationTime,
    cells := match w.stream with
      | none => 0
      | some n => (s.unit n).cellCount }

/-- The condition unit takes a condition (R155). -/
def cause (c : Condition) (w : FaultWhere) (s : State) : State :=
  { s with conds := { s.conds with
      flags := s.conds.flags ||| c.bit
      haltPending := if s.halts c then some (s.capture c w) else s.conds.haltPending } }

/-- Cause a condition when `b` holds. -/
def causeIf (b : Bool) (c : Condition) (w : FaultWhere) (s : State) : State := if b then s.cause c w else s

/-! ## Bus transfers -/

/-- The exchange area's first address: BASE with its low 10 bits as 0 (R25). -/
def areaBase (s : State) : Word := (s.control.base >>> 10) <<< 10

/-- The address of an exchange-area offset, modulo 2^32 (R25). -/
def areaAddr (s : State) (off : Nat) : Word := s.areaBase + BitVec.ofNat 32 off

/-- How the next transfer ends (log 5). -/
def nextEnd (s : State) : Option Nat := (s.bus.head?).join

/-- The plan behind the next transfer. -/
def dropEnd (s : State) : State := { s with bus := s.bus.tail }

/-- Start a command that uses the bus: the host's writes land, and the command's BERR plan is in force (logs 4, 5). -/
def beginBus (env : Env) (s : State) : State :=
  { s with mem := memHostWrites s.mem env.hostWrites, bus := env.berr }

/-- End a command that used the bus. -/
def endBus (s : State) : State := { s with bus := [] }

/-- One read burst of the exchange area (R26): its bytes, or nothing and BOARD_BUS when it meets BERR; what that
captures is log 37. -/
def readArea (off len : Nat) (s : State) : Option (List Byte) × State :=
  match s.nextEnd with
  | none => (some (memReadRun s.mem (s.areaAddr off) len), s.dropEnd)
  | some _ => (none, s.dropEnd.cause .boardBus nowhere)

/-- One write burst of the exchange area (R26): whether it ended well; one that meets BERR leaves the bytes it had
not yet written and causes BOARD_BUS; what that captures is log 37. -/
def writeArea (off : Nat) (bs : List Byte) (s : State) : Bool × State :=
  match s.nextEnd with
  | none => (true, { s.dropEnd with mem := memWriteRun s.mem (s.areaAddr off) bs })
  | some k =>
    (false, ({ s.dropEnd with mem := memWriteRun s.mem (s.areaAddr off) (bs.take k) } : State).cause .boardBus nowhere)

/-- One payload fetch (R77): the bytes, or nothing when it meets BERR; the condition is the scheduler's (R83, R84). -/
def readPayload (a : Word) (len : Nat) (s : State) : Option (List Byte) × State :=
  match s.nextEnd with
  | none => (some (memReadRun s.mem a len), s.dropEnd)
  | some _ => (none, s.dropEnd)

/-- No transfer made on the way from s to t met BERR: none of the outcomes that t has taken from the plan of s is a BERR
(R26, log 5). -/
def endedWell (s t : State) : Bool := (s.bus.take (s.bus.length - t.bus.length)).all Option.isNone

/-- The same of the transfers after the first k on that way. -/
def endedWellFrom (k : Nat) (s t : State) : Bool :=
  ((s.bus.take (s.bus.length - t.bus.length)).drop k).all Option.isNone

/-- More than k transfers have been made on the way from s to t, s having a plan of more than k outcomes. -/
def pastTransfer (k : Nat) (s t : State) : Bool := decide (t.bus.length + k < s.bus.length)

/-- Writes one after the other, each made only when the one before ended well (R26). -/
def writeAll : List (Nat × List Byte) → State → Bool × State
  | [], s => (true, s)
  | (off, bs) :: rest, s =>
    match s.writeArea off bs with
    | (true, s) => writeAll rest s
    | (false, s) => (false, s)

/-- Read bursts one after the other, the rest not made when one meets BERR (R26). -/
def readAll : List (Nat × Nat) → State → Option (List (List Byte)) × State
  | [], s => (some [], s)
  | (off, len) :: rest, s =>
    match s.readArea off len with
    | (none, s) => (none, s)
    | (some bs, s) =>
      match readAll rest s with
      | (none, s) => (none, s)
      | (some bss, s) => (some (bs :: bss), s)

/-! ## The air log -/

end State

/-- What a block reports in a log record; the log writer adds the station time and the cell count (R178). -/
structure LogEvent where
  kind : LogKind
  stream : Option StreamId
  reason : Byte
  aux : Byte
  subject : Half
  deriving DecidableEq, Repr

/-- A stream field: 0 to 3, or FFH (R191). -/
def streamByte : Option StreamId → Byte
  | none => 0xFF
  | some n => BitVec.ofNat 8 n.val

/-- The 16 bytes of a log record (R191). -/
def logBytes (e : LogEvent) (time cells : Word) : List Byte :=
  [e.kind.code, streamByte e.stream, e.reason, e.aux] ++ le16 e.subject ++ [0, 0] ++ le32 time ++ le32 cells

namespace State

/-- The record's class is in the notify mask (R179). -/
def notified (s : State) (k : LogKind) : Bool := s.control.notifyMask.getLsbD k.classBit

/-- The write position after an append (R177). -/
def bumpLog (s : State) : State := { s with writePosition := s.writePosition + 1 }

/-- Append a record with a station time and cell count given (R177, R178); whether every transfer ended well. -/
def appendAt (e : LogEvent) (time cells : Word) (s : State) : Bool × State :=
  match s.readArea Config.offReadPosition 2 with
  | (none, s) => (false, s)
  | (some bs, s) =>
    if s.writePosition + 1 = (le16At bs 0).setWidth 9 then
      (true, s.cause .logFull
        { stream := e.stream, slot := 0xFF, lane := 0xFF, address := e.kind.code.setWidth 32 })
    else
      match s.writeArea (Config.offLog + Config.logSize * s.writePosition.toNat) (logBytes e time cells) with
      | (false, s) => (false, s)
      | (true, s) =>
        let r := s.bumpLog.writeArea Config.offWritePosition (le16 (s.bumpLog.writePosition.setWidth 16))
        (r.1, if r.2.notified e.kind then r.2.raiseInterrupt else r.2)

/-- The cell count a record carries: that of the stream named, 0 when none is (R178). -/
def recordCells (s : State) (n : Option StreamId) : Word :=
  match n with
  | none => 0
  | some n => (s.unit n).cellCount

/-- Append a record with the station time and cell count as they stand (R177, R178). -/
def append (e : LogEvent) (s : State) : Bool × State := s.appendAt e s.stationTime (s.recordCells e.stream)

/-- Append a record whose outcome changes nothing for its block (log 29). -/
def report (e : LogEvent) (s : State) : State := (s.append e).2

/-- Append records in order (R177). -/
def reportAll : List LogEvent → State → State
  | [], s => s
  | e :: es, s => reportAll es (s.report e)

end State

/-- Run a command that uses the bus: host writes and BERR plan in, the effect, plan out. -/
def withBus (env : Env) (f : State → State) (s : State) : State := (f (s.beginBus env)).endBus

end Sys2Proof.Machine
end

