-- ==== Sys2Proof/Machine/Operands.lean ====
section
/-! DEFINITION. The fields the part reads: the exchange header (R184 to R187), the item record (R190), and the
effective values of R171. -/

namespace Sys2Proof.Machine

/-! ## General configuration -/

/-- round_half_up of a quotient (00_scope.md section 5). -/
def roundHalfUp (a b : Nat) : Nat := (2 * a + b) / (2 * b)

/-- ceil of a quotient. -/
def ceilDiv (a b : Nat) : Nat := (a + b - 1) / b

/-- Feed parity codes (R120). -/
def parityOf (b : Byte) : Parity :=
  match b.toNat with
  | 1 => .even
  | 2 => .odd
  | _ => .none

/-- Clock source codes (R144). -/
def clockSourceOf (b : Byte) : ClockSource :=
  match b.toNat with
  | 1 => .feed
  | 2 => .auto
  | _ => .localOnly

/-- A local offset taken to the nearer limit of -24 to +24 half-hours (R144, R148). -/
def clampOffset (b : Byte) : Int := max (-24) (min b.toInt 24)

/-- The feed sampling divisor Df for f_clk in kHz and a nonzero feed rate R (R121). -/
def feedDivisorOf (fclk rate : Nat) : Nat := roundHalfUp (fclk * 1000) (16 * rate) - 1

/-- The magnitude of the divisor error is above 3 percent (R121), in exact arithmetic: the actual rate is
f_clk × 1000 / (16 (Df + 1)). -/
def feedErrorAbove3 (fclk rate : Nat) : Bool :=
  let want := 16 * (feedDivisorOf fclk rate + 1) * rate
  let got := fclk * 1000
  decide (3 * want < 100 * (max got want - min got want))

/-- The internal divisor Ds for f_clk in kHz and bit rate B (R21). -/
def bitDivisorOf (fclk rate : Nat) : Nat := roundHalfUp (fclk * 1000) rate - 1

/-- The divisor that START leaves stream n with configuration c, enabled or not, `held` before it (R171): Ds for an
INTERNAL stream, free at a bit rate of 0 (log 35). DESIGN CHOICE (log 35, unsafe): 0 for an EXTERNAL one, for which
a unit holds no Ds (R21). -/
def startDivisorOf (n : StreamId) (fclk : Nat) (c : StreamConfig) (held : Nat) : Nat :=
  match c.source with
  | .extern => 0
  | .intern => if c.rate = 0 then Config.divisorAtRateZero n fclk held else bitDivisorOf fclk c.rate

/-- The effective general configuration from the 18 bytes at 0000H (R171, R185). DESIGN CHOICE (log 40, unsafe): R121
computes Df for a nonzero feed rate only; with a feed rate of 0 the divisor held is 0. -/
def generalOf (bs : List Byte) : GeneralConfig :=
  let fclk := (le16At bs 2).toNat
  let rate := (le16At bs 12).toNat
  { fclk := fclk
    parity := parityOf (byteAt bs 1)
    networkCode := le16At bs 4
    feedRate := rate
    defaultHold := clampNat 1 Config.maxHold (le16At bs 14).toNat
    silenceLimit := clampNat 2 60 (byteAt bs 16).toNat
    feedDivisor := if rate = 0 then 0 else feedDivisorOf fclk rate }

/-- The notify mask: the low 6 bits of its byte (R171, R185). -/
def notifyMaskOf (b : Byte) : BitVec 6 := b.setWidth 6

/-- The halt mask: the low 13 bits of its word (R154, R185). -/
def haltMaskOf (w : Word) : BitVec 13 := w.setWidth 13

/-! ## Stream configurations -/

/-- A stream's effective configuration from its 16 bytes (R171, R186). -/
def streamConfigOf (bs : List Byte) : StreamConfig :=
  { enabled := (byteAt bs 0).getLsbD 0
    source := if byteAt bs 1 = 1 then .intern else .extern
    variant := (byteAt bs 2).setWidth 5
    region := byteAt bs 3
    switchThreshold := min (byteAt bs 4).toNat 7
    quietThreshold := min (byteAt bs 5).toNat 7
    feedCeiling := clampNat 1 7 (byteAt bs 6).toNat
    burst := if byteAt bs 7 = 0 then 4 else min (byteAt bs 7).toNat 8
    interval := clampNat 4 64 (byteAt bs 8).toNat
    rate := (le16At bs 10).toNat
    ceiling := clampNat 10 100 (byteAt bs 9).toNat }

/-- Stream n's configuration from the 64 bytes at 0040H (R184). -/
def streamConfigAt (bs : List Byte) (n : StreamId) : StreamConfig :=
  streamConfigOf (bs.drop (16 * n.val))

/-- Ceiling units of a percentage (R67). -/
def ceilingUnits (percent : Nat) : Nat := percent * 65536 / 100

/-! ## Windows and corrections -/

/-- A window from its 12 bytes (R49, R50, R186). -/
def windowOf (bs : List Byte) : Window :=
  { low := le32At bs 0 &&& 0xFFFFFFFC
    high := le32At bs 4 ||| 0x00000003
    desk := (byteAt bs 8).setWidth 4
    enabled := (byteAt bs 9).getLsbD 0
    global := (byteAt bs 9).getLsbD 1 }

/-- The window table from the 96 bytes at 0080H (R51, R184). -/
def windowsOf (bs : List Byte) : Vector Window 8 :=
  Vector.ofFn fun w => windowOf (bs.drop (12 * w.val))

/-- The correction entries from the 16 bytes at 00E0H (R12, R186). -/
def correctionsOf (bs : List Byte) : Vector Correction 8 :=
  Vector.ofFn fun c => { host := byteAt bs (2 * c.val), air := byteAt bs (2 * c.val + 1) }

/-- A window admits a desk (R50). -/
def Window.admits (w : Window) (desk : BitVec 4) : Bool := w.enabled && (w.global || w.desk == desk)

/-- A window holds the whole range from a to e (R52). -/
def Window.holds (w : Window) (a e : Nat) : Bool := decide (w.low.toNat ≤ a) && decide (e ≤ w.high.toNat)

/-- The containing window of a range for a desk: the lowest-numbered one (R52). -/
def containingWindow (ws : Vector Window 8) (desk : BitVec 4) (a e : Nat) : Option (Fin 8) :=
  (List.finRange 8).find? fun i => ws[i].admits desk && ws[i].holds a e

/-- A range of length n, at least 1, runs past the top of the address space (R53). -/
def wrapsTop (a n : Nat) : Bool := decide (0xFFFFFFFF < a + n - 1)

/-! ## Item records -/

/-- The host fields of an item record as a visit reads them (R190). -/
structure ItemRecord where
  state : Byte
  request : Byte
  code : Byte
  kind : Byte
  cls : Nat
  desk : BitVec 4
  targets : BitVec 4
  feedNameBit : Bool
  period : Nat
  delay : Nat
  limit : Nat
  address : Word
  length : Nat
  amendClass : Nat
  amendPeriod : Nat
  notBefore : Word
  expiry : Word
  deriving DecidableEq, Repr

/-- The record of 48 bytes (R190). -/
def itemRecordOf (bs : List Byte) : ItemRecord :=
  { state := byteAt bs 0
    request := byteAt bs 1
    code := byteAt bs 2
    kind := byteAt bs 3
    cls := ((byteAt bs 4).extractLsb' 0 2).toNat
    desk := (byteAt bs 4).extractLsb' 4 4
    targets := (byteAt bs 5).extractLsb' 0 4
    feedNameBit := (byteAt bs 5).getLsbD 7
    period := (le16At bs 6).toNat
    delay := (le16At bs 8).toNat
    limit := (le16At bs 10).toNat
    address := le32At bs 12
    length := (byteAt bs 16).toNat
    amendClass := (byteAt bs 17).toNat
    amendPeriod := (le16At bs 18).toNat
    notBefore := le32At bs 20
    expiry := le32At bs 24 }

/-- Item kinds an item may have (R34). -/
def itemKindOf (b : Byte) : Option ItemKind :=
  match b.toNat with
  | 1 => some .name
  | 3 => some .notice
  | 5 => some .sibling
  | 6 => some .generic
  | _ => none

/-- The payload length is in the kind's range (R34). -/
def lengthOk : ItemKind → Nat → Bool
  | .name, n => decide (1 ≤ n) && decide (n ≤ 64)
  | .notice, n => decide (6 ≤ n) && decide (n ≤ 46)
  | .sibling, n => n == 8
  | .generic, n => decide (1 ≤ n) && decide (n ≤ 64)

/-- Cells per repetition (R35). -/
def cellsPerRepetition : ItemKind → Nat → Nat
  | .name, _ => 2
  | .notice, n => 1 + ceilDiv (n - 6) 8
  | .sibling, _ => 1
  | .generic, n => ceilDiv n 8

/-- The exchange-area offset of an item record (R24). -/
def itemOffset (slot : SlotId) : Nat := Config.offItems + Config.itemSize * slot.toNat

/-! ## Request records -/

/-- An announcement request record as read (R187). -/
structure AnnRequest where
  request : Byte
  op : Byte
  number : Byte
  level : Nat
  kind : BitVec 4
  mask : BitVec 4
  duration : Nat
  deriving DecidableEq, Repr

/-- Record r of the 128 bytes at 0140H (R184, R187). -/
def annRequestAt (bs : List Byte) (r : RequestId) : AnnRequest :=
  let b := bs.drop (16 * r.val)
  { request := byteAt b 0
    op := byteAt b 2
    number := byteAt b 4
    level := (byteAt b 5).toNat
    kind := (byteAt b 6).setWidth 4
    mask := (byteAt b 7).setWidth 4
    duration := (le16At b 8).toNat }

/-- The exchange-area offset of a request record (R184). -/
def requestOffset (r : RequestId) : Nat := Config.offRequests + 16 * r.val

end Sys2Proof.Machine
end

