-- ==== Sys2Proof/Machine/Cells.lean ====
section
/-! DEFINITION. Cells and their payloads (R1 to R11, R183), text conversion (R12 to R14), and the parts of a
repetition. -/

namespace Sys2Proof.Machine

/-! ## The cell -/

/-- Eight payload bytes from a list, padded after its end. -/
def payloadOf (bs : List Byte) (pad : Byte) : Vector Byte 8 := Vector.ofFn fun i => bs.getD i.val pad

/-- One bit into the check register: generator x^16 + x^15 + x^2 + 1 (R4). -/
def crcBit (r : Half) (b : Bool) : Half :=
  if r.getLsbD 15 != b then (r <<< 1) ^^^ 0x8005#16 else r <<< 1

/-- One byte into the check register, most significant bit first (R4). -/
def crcByte (r : Half) (v : Byte) : Half :=
  [7, 6, 5, 4, 3, 2, 1, 0].foldl (fun r i => crcBit r (v.getLsbD i)) r

/-- The check word of a run of bytes (R4). -/
def checkWord (bs : List Byte) : Half := bs.foldl crcByte 0xFFFF#16

/-- The two header bytes (R2, R183). -/
def AirCell.header (c : AirCell) : List Byte :=
  [c.kind.code ++ BitVec.ofBool c.part.last ++ c.part.index, c.level ++ c.variant]

/-- Bytes 0 to 9 of the cell (R183). -/
def AirCell.body (c : AirCell) : List Byte := c.header ++ c.payload.toList

/-- The twelve bytes of the cell, check word last, high byte first (R1, R4). -/
def AirCell.bytes (c : AirCell) : List Byte := c.body ++ be16 (checkWord c.body)

/-- Bit i of the cell in the order sent: byte 0 first, each byte most significant bit first (R1). -/
def AirCell.bit (c : AirCell) (i : Nat) : Bool := (byteAt c.bytes (i / 8)).getLsbD (7 - i % 8)

/-- The part field of a cell that is a repetition of its own (R3). -/
def PartField.single : PartField := { last := true, index := 0 }

/-- The part field of part i of m (R3). -/
def PartField.ofIndex (i m : Nat) : PartField := { last := i + 1 == m, index := BitVec.ofNat 3 i }

/-- Parts numbered from i (R3). -/
def numberParts (kind : CellKind) (m : Nat) : Nat → List (Vector Byte 8) → List StagedPart
  | _, [] => []
  | i, p :: ps => { kind := kind, part := PartField.ofIndex i m, payload := p } :: numberParts kind m (i + 1) ps

/-- The parts of a repetition with these payloads (R3). -/
def partsOf (kind : CellKind) (ps : List (Vector Byte 8)) : List StagedPart := numberParts kind ps.length 0 ps

/-- n payloads of eight bytes each, in order, the last padded. -/
def chunks : Nat → List Byte → Byte → List (Vector Byte 8)
  | 0, _, _ => []
  | n + 1, bs, pad => payloadOf bs pad :: chunks n (bs.drop 8) pad

/-- As many payloads of eight bytes as a run of bytes needs (R8, R11). -/
def chunked (bs : List Byte) (pad : Byte) : List (Vector Byte 8) := chunks (ceilDiv bs.length 8) bs pad

/-! ## Text conversion -/

/-- The built-in map (R12). -/
def builtinAir (h : Byte) : Option Byte :=
  if 0x20 ≤ h.toNat ∧ h.toNat ≤ 0x7E then some h
  else if 0xA0 ≤ h.toNat then some (h - 0x20)
  else none

/-- A correction entry is in use when its air code lies in 20H to DFH (R12). -/
def Correction.inUse (c : Correction) : Bool := decide (0x20 ≤ c.air.toNat) && decide (c.air.toNat ≤ 0xDF)

/-- The air code of a host code: the lowest-numbered entry in use for it, else the built-in map (R12). -/
def airCode (cs : Vector Correction 8) (h : Byte) : Option Byte :=
  match cs.toList.find? (fun c => c.inUse && c.host == h) with
  | some c => some c.air
  | none => builtinAir h

/-- Converted codes, 3FH for each code that has no air code (R13). -/
def convert (cs : Vector Correction 8) (hs : List Byte) : List Byte := hs.map fun h => (airCode cs h).getD 0x3F

/-- Some code was substituted (R13). -/
def substitutes (cs : Vector Correction 8) (hs : List Byte) : Bool := hs.any fun h => (airCode cs h).isNone

/-- What a repetition start has in hand: its parts, and the text conditions it causes (R13, R14). -/
structure Content where
  parts : List StagedPart
  truncated : Bool
  substituted : Bool
  deriving DecidableEq, Repr

/-- A name from the host codes used, at most 16: 16 air codes in two parts, missing ones 20H (R6, R14); `cut` when
codes past the sixteenth were left out. -/
def nameContent (cs : Vector Correction 8) (hs : List Byte) (cut : Bool) : Content :=
  { parts := partsOf .name [payloadOf (convert cs hs) 0x20, payloadOf ((convert cs hs).drop 8) 0x20]
    truncated := cut
    substituted := substitutes cs hs }

/-- A notice from its six field bytes, its text in host codes and its origin byte (R8, R9). -/
def noticeContent (cs : Vector Correction 8) (fields text : List Byte) (origin : Byte) : Content :=
  let part0 := payloadOf (fields.take 6 ++ [BitVec.ofNat 8 text.length, origin]) 0
  { parts := partsOf .notice (part0 :: chunked (convert cs text) 0x20)
    truncated := false
    substituted := substitutes cs text }

/-- A repetition of payload bytes sent unchanged (R11). -/
def rawContent (kind : CellKind) (bs : List Byte) : Content :=
  { parts := partsOf kind (chunked bs 0x00), truncated := false, substituted := false }

/-- How many payload bytes a fetch reads: those the repetition uses (R56, R77). -/
def fetchLength (kind : ItemKind) (length : Nat) : Nat :=
  match kind with
  | .name => min length 16
  | .notice | .sibling | .generic => length

/-- The content of a fetched item of payload length `length` from the bytes fetched (R77). -/
def itemContent (cs : Vector Correction 8) (kind : ItemKind) (length : Nat) (bs : List Byte) : Content :=
  match kind with
  | .name => nameContent cs bs (decide (16 < length))
  | .notice => noticeContent cs (bs.take 6) (bs.drop 6) 0
  | .sibling => rawContent .sibling bs
  | .generic => rawContent .generic bs

/-- The content of a feed notice (R9, R194). -/
def feedNoticeContent (cs : Vector Correction 8) (x : FeedNotice) : Content :=
  noticeContent cs (be16 x.location ++ be16 x.event ++ [x.extent, x.flags]) x.text 1

namespace State

/-! ## Cells formed from state -/

/-- A stream's level (R93). -/
def level (s : State) (n : StreamId) : Nat :=
  match (s.positions n).current with
  | none => 0
  | some p => p.level

/-- The sibling mask of a stream (R5). -/
def siblingMask (s : State) (n : StreamId) : Byte :=
  (List.finRange 4).foldl
    (fun m i => if i ≠ n ∧ 0 < s.level i then m ||| BitVec.ofNat 8 (2 ^ i.val) else m) (0 : Byte)

/-- Form a cell: the level and variant code are filled now (R2). -/
def formCell (s : State) (n : StreamId) (kind : CellKind) (part : PartField) (payload : Vector Byte 8) : AirCell :=
  { kind := kind, part := part, level := BitVec.ofNat 3 (s.level n), variant := (s.unit n).config.variant,
    payload := payload }

/-- The variant byte of a stream in a FILL cell (R5). -/
def variantByte (s : State) (n : StreamId) : Byte :=
  if s.enabled n then (s.unit n).config.variant.setWidth 8 else 0xFF

/-- A FILL cell (R5). -/
def fillCell (s : State) (n : StreamId) : AirCell :=
  s.formCell n .fill PartField.single
    (payloadOf (be16 s.general.networkCode
      ++ [s.variantByte 0, s.variantByte 1, s.variantByte 2, s.variantByte 3, s.siblingMask n,
          originCode s.clock.origin]) 0)

/-- The bytes of an ALERT cell that describe the CURRENT announcement: number, origin and kind, level, hold (R7). -/
def alertHead (s : State) (n : StreamId) : List Byte :=
  match (s.positions n).current with
  | none => [0, 0, 0, 0, 0]
  | some p =>
    match s.announcement p.entry with
    | none => [0, 0, 0, 0, 0]
    | some a =>
      [a.number, (if a.origin = .feed then 0x80 else 0x00) ||| a.kind.setWidth 8, BitVec.ofNat 8 p.level]
        ++ be16 (BitVec.ofNat 16 (min a.hold Config.maxHold))

/-- An ALERT cell (R7). -/
def alertCell (s : State) (n : StreamId) : AirCell :=
  s.formCell n .alert PartField.single
    (payloadOf (s.alertHead n
      ++ [s.siblingMask n, BitVec.ofNat 8 (s.positions n).suspended.length,
          BitVec.ofNat 8 (s.positions n).waiting.length]) 0)

/-- The three bytes of a second of day, most significant first (R10). -/
def be24 (k : Nat) : List Byte := [BitVec.ofNat 8 (k / 65536), BitVec.ofNat 8 (k / 256), BitVec.ofNat 8 k]

/-- A CLOCK cell (R10). -/
def clockCell (s : State) (n : StreamId) : AirCell :=
  s.formCell n .clock PartField.single
    (payloadOf (be16 (BitVec.ofNat 16 (s.stationTime.toNat / 86400)) ++ be24 (s.stationTime.toNat % 86400)
      ++ [BitVec.ofInt 8 s.clock.offset, originCode s.clock.origin, 0]) 0)

/-- The minute of the station time (R10, R150). -/
def minute (s : State) : Nat := s.stationTime.toNat / 60

/-- Put a formed cell into the buffer (R19). -/
def bufferCell (n : StreamId) (c : AirCell) (s : State) : State := s.setUnit n { s.unit n with buffer := .full c }

end State

end Sys2Proof.Machine
end

