-- ==== Sys2Proof/Machine/Lanes.lean ====
section
/-! DEFINITION. The shadow table and the lane table: periods and loads (R65 to R67), closing and freeing lanes
(R63, R64), retirement (R44), and the feed-notice lanes (R86 to R88, R141). -/

namespace Sys2Proof.Machine

/-! ## Periods and loads -/

/-- Tenths of a second to cells at a bit rate, before any clamp (R65, R66). -/
def cellsOf (tenths rate : Nat) : Nat := (tenths * rate + 480) / 960

/-- P of a period (R65). -/
def periodCells (tenths rate : Nat) : Nat := clampNat 1 65535 (cellsOf tenths rate)

/-- The conversion of R65 clamps. -/
def periodClamps (tenths rate : Nat) : Bool := cellsOf tenths rate == 0 || decide (65535 < cellsOf tenths rate)

/-- The initial countdown of a delay on a lane of period P (R66). -/
def initialCountdown (delay rate period : Nat) : Nat := min (cellsOf delay rate) period

/-- The clamp of R66. -/
def delayClamps (delay rate period : Nat) : Bool := decide (period < cellsOf delay rate)

/-- Load units of a lane (R67). -/
def laneLoad (m period : Nat) : Nat := ceilDiv (m * 65536) period

/-- Period in tenths of a feed notice's urgency (R86). -/
def urgencyTenths : Nat → Nat
  | 3 => 50
  | 2 => 150
  | 1 => 300
  | _ => 600

/-- Class of a feed notice's urgency (R86). -/
def urgencyClass : Nat → Nat
  | 3 => 0
  | 2 => 2
  | 1 => 2
  | _ => 3

/-- Cells per repetition of a feed notice (R9, R86). -/
def noticeCells (textLength : Nat) : Nat := 1 + ceilDiv textLength 8

namespace State

/-! ## Looking at the tables -/

/-- Ceiling units of a stream (R67). -/
def ceiling (s : State) (n : StreamId) : Nat := ceilingUnits (s.unit n).config.ceiling

/-- The configured bit rate of a stream. -/
def rate (s : State) (n : StreamId) : Nat := (s.unit n).config.rate

/-- The lanes in use that satisfy a test, in ascending order. -/
def lanesWhere (s : State) (p : Lane → Bool) : List LaneId :=
  (List.finRange 96).filter fun i =>
    match s.lane i with
    | none => false
    | some l => p l

/-- Some lane has this source (R61, R88). -/
def hasLane (s : State) (src : Source) : Bool := !(s.lanesWhere fun l => l.source == src).isEmpty

/-- Some lane on the stream has this source (R62). -/
def hasLaneOn (s : State) (src : Source) (n : StreamId) : Bool :=
  !(s.lanesWhere fun l => l.source == src && l.stream == n).isEmpty

/-- The lane mask of an item: its streams with a lane, closing lanes included (R43). -/
def laneMask (s : State) (e : ShadowId) : Byte :=
  (List.finRange 4).foldl (fun m n => if s.hasLaneOn (.item e) n then m ||| BitVec.ofNat 8 (2 ^ n.val) else m)
    (0 : Byte)

/-- The lowest-numbered free lane (R62). -/
def freeLaneId (s : State) : Option LaneId := (List.finRange 96).find? fun i => (s.lane i).isNone

/-- The lowest-numbered free shadow entry (R60). -/
def freeShadowId (s : State) : Option ShadowId := (List.finRange 64).find? fun e => (s.shadowAt e).isNone

/-- The shadow entry of an item slot (R60). -/
def shadowOf (s : State) (slot : SlotId) : Option ShadowId :=
  (List.finRange 64).find? fun e =>
    match s.shadowAt e with
    | none => false
    | some sh => sh.slot == slot

/-- The lane of a stream that is in a repetition (R63, R71). -/
def airingLane (s : State) (n : StreamId) : Option LaneId :=
  (List.finRange 96).find? fun i =>
    match s.lane i with
    | none => false
    | some l => l.stream == n && l.repetition != .idle

/-! ## Creating and changing lanes -/

/-- Create a lane in the lowest-numbered free lane and raise its stream's committed load (R62, R68, R86). -/
def createLane (l : Lane) (s : State) : State :=
  match s.freeLaneId with
  | none => s
  | some i => (s.setLane i (some l)).setCommitted l.stream (s.committed l.stream + l.load)

/-- Replace a lane in use by the same lane changed, its stream's committed load following its load (R69, R87). -/
def reRateLane (i : LaneId) (l new : Lane) (s : State) : State :=
  (s.setLane i (some new)).setCommitted l.stream (s.committed l.stream - l.load + new.load)

/-- Free a lane: its load leaves the stream's committed load (R63). -/
def dropLane (i : LaneId) (s : State) : State :=
  match s.lane i with
  | none => s
  | some l => (s.setLane i none).setCommitted l.stream (s.committed l.stream - l.load)

/-! ## Retirement -/

/-- Bytes 28 to 47 of a retired item's record (R44). -/
def retiredFields (sh : Shadow) (r : RetireReason) : List Byte :=
  [r.code, sh.taken, Note.none.code, sh.outcome.code, 0, 0, 0, 0]
    ++ le32 (BitVec.ofNat 32 sh.airTotal) ++ le32 (BitVec.ofNat 32 sh.slipTotal) ++ le32 sh.lastAired

/-- The writes of a retirement: the part fields, then the state byte (R28, R44). -/
def retireWrites (sh : Shadow) (r : RetireReason) : List (Nat × List Byte) :=
  [(itemOffset sh.slot + 28, retiredFields sh r), (itemOffset sh.slot, [itemRetired])]

/-- The ITEM_RETIRED record (R178). -/
def retiredEvent (slot : SlotId) (desk : BitVec 4) (r : RetireReason) : LogEvent :=
  { kind := .itemRetired, stream := none, reason := r.code, aux := desk.setWidth 8, subject := slot.setWidth 16 }

/-- Free a shadow entry and retire its record; ITEM_RETIRED is appended even when a write met BERR (R44). -/
def retireItem (e : ShadowId) (r : RetireReason) (s : State) : State :=
  match s.shadowAt e with
  | none => s
  | some sh => (((s.setShadow e none).writeAll (retireWrites sh r)).2).report (retiredEvent sh.slot sh.desk r)

/-! ## Feed notices that lose their lanes -/

/-- The FEED_NOTICE_DROPPED record (R141). -/
def droppedEvent (x : FeedNotice) (r : DropReason) : LogEvent :=
  { kind := .feedNoticeDropped, stream := none, reason := r.code, aux := BitVec.ofNat 8 x.urgency, subject := x.id }

/-- FEED_DROP and its record, for a notice dropped; `slot` is the store entry concerned, or FFH (R158). -/
def dropNotice (x : FeedNotice) (r : DropReason) (slot : Byte) (s : State) : State :=
  (s.cause .feedDrop { stream := none, slot := slot, lane := 0xFF, address := x.id.setWidth 32 }).report
    (droppedEvent x r)

/-- The engine takes the report that a store entry has no lane (R141). -/
def noticeReport (j : StoreId) (s : State) : State :=
  match s.notice j with
  | .free => s
  | .releasing => s.setNotice j .free
  | .held x => (s.setNotice j .free).dropNotice x .reRate (BitVec.ofNat 8 j.val)

/-- What follows the freeing of a lane (R63): an item without lanes retires, a notice without lanes is reported. -/
def afterFreeing (src : Source) (why : Closing) (s : State) : State :=
  if s.hasLane src then s
  else
    match src with
    | .item e => s.retireItem e why.retireReason
    | .notice j => s.noticeReport j

/-- A lane leaves its repetition; a closing lane is freed then (R63, R80). -/
def endRepetition (i : LaneId) (s : State) : State :=
  match s.lane i with
  | none => s
  | some l =>
    match l.closing with
    | none => s.setLane i (some { l with repetition := .idle })
    | some why => (s.dropLane i).afterFreeing l.source why

/-! ## Closing -/

/-- Close one lane (R63): freed at once when it is in no repetition, marked otherwise; the first reason stays. What
follows a freeing is the caller's. -/
def closeLane (why : Closing) (i : LaneId) (s : State) : State :=
  match s.lane i with
  | none => s
  | some l =>
    match l.closing with
    | some _ => s
    | none =>
      if l.repetition = .idle then s.dropLane i
      else s.setLane i (some { l with closing := some why })

/-- Close lanes one after the other. -/
def closeLanes (why : Closing) : List LaneId → State → State
  | [], s => s
  | i :: is, s => closeLanes why is (s.closeLane why i)

/-- Close an item as a whole (R64). What follows a freeing is the caller's. -/
def closeItem (why : Closing) (e : ShadowId) (s : State) : State :=
  match s.shadowAt e with
  | none => s
  | some sh =>
    closeLanes why (s.lanesWhere fun l => l.source == .item e)
      (s.setShadow e (some { sh with closing := some (sh.closing.getD why) }))

/-- Close every lane of a store entry (R88). The report of a freeing is the caller's. -/
def closeNotice (j : StoreId) (s : State) : State :=
  closeLanes .unreasoned (s.lanesWhere fun l => l.source == .notice j) s

/-- The report of R88 at the end of what may have freed the last lane of entry j: `had` says whether the entry had a
lane before. -/
def settleNotice (j : StoreId) (had : Bool) (s : State) : State :=
  if had && !s.hasLane (.notice j) then s.noticeReport j else s

/-! ## Feed-notice lanes -/

/-- The lane a feed notice would have on a stream (R86). -/
def noticeLane (s : State) (j : StoreId) (x : FeedNotice) (n : StreamId) : Lane :=
  let p := periodCells (urgencyTenths x.urgency) (s.rate n)
  let m := noticeCells x.text.length
  { source := .notice j, stream := n, cls := urgencyClass x.urgency, period := p, m := m, countdown := 0, air := 0,
    load := laneLoad m p, repetition := .idle, closing := none, fresh := true }

/-- The tests of R86 for a lane of entry j on a stream. -/
def noticeLaneFits (s : State) (j : StoreId) (x : FeedNotice) (n : StreamId) : Bool :=
  s.freeLaneId.isSome && !s.hasLaneOn (.notice j) n
    && decide (s.committed n + (s.noticeLane j x n).load ≤ s.ceiling n)

/-- Ask for a lane of entry j on one stream (R86). -/
def askLane (j : StoreId) (x : FeedNotice) (n : StreamId) (s : State) : State :=
  if s.enabled n && s.noticeLaneFits j x n then s.createLane (s.noticeLane j x n) else s

/-- Ask for lanes of entry j on the matched streams, in order 0 to 3 (R86). -/
def askLanes (j : StoreId) (x : FeedNotice) (matched : BitVec 4) (s : State) : State :=
  (List.finRange 4).foldl (fun s n => if matched.getLsbD n.val then s.askLane j x n else s) s

/-- Re-rate one lane of entry j, or close it where its stream cannot take the new load (R87). -/
def reRateNotice (j : StoreId) (x : FeedNotice) (i : LaneId) (s : State) : State :=
  match s.lane i with
  | none => s
  | some l =>
    if l.closing.isSome then s
    else
      let new := s.noticeLane j x l.stream
      if s.committed l.stream - l.load + new.load ≤ s.ceiling l.stream then
        s.reRateLane i l { l with
          cls := new.cls, period := new.period, m := new.m, load := new.load,
          countdown := min l.countdown (new.period : Int) }
      else s.closeLane .unreasoned i

/-- Re-rate every lane of entry j in turn (R87). -/
def reRateNotices (j : StoreId) (x : FeedNotice) (s : State) : State :=
  (s.lanesWhere fun l => l.source == .notice j).foldl (fun s i => s.reRateNotice j x i) s

end State

end Sys2Proof.Machine
end

