-- ==== Sys2Proof/Machine/Sweep.lean ====
section
/-! DEFINITION. The item sweep: visits, admission, requests on active items, expiry, write-back, and the records the
part does not expect (R30 to R46, R68, R69). Command SWEEP_VISIT. -/

namespace Sys2Proof.Machine

/-- The lane an item would have on one stream (R68), and whether a conversion clamped (R65, R66). -/
structure LanePlan where
  stream : StreamId
  period : Nat
  countdown : Nat
  load : Nat
  clamped : Bool
  deriving DecidableEq, Repr

/-- What the admission of a POSTED record comes to (R34 to R36). `clamped`: PERIOD_CLAMP is caused with it. -/
inductive Verdict where
  | reject (reason : RejectReason) (clamped : Bool)
  | defer (note : Note)
  | admitted (kind : ItemKind) (plans : List LanePlan) (clamped : Bool)
  deriving DecidableEq, Repr

namespace ItemRecord

/-- The FEED_NAME flag, which kind NAME alone has (R34). -/
def feedName (r : ItemRecord) (kind : ItemKind) : Bool := kind == .name && r.feedNameBit

/-- Period and initial delay after the clamps of check 4 (R34). -/
def tenths (r : ItemRecord) : Nat := min r.period Config.maxTenths
def delayTenths (r : ItemRecord) : Nat := min r.delay Config.maxTenths

/-- A clamp of check 4 (R34). -/
def clamps4 (r : ItemRecord) : Bool := decide (Config.maxTenths < r.period) || decide (Config.maxTenths < r.delay)

/-- Check 5 fails (R35). -/
def badTime (r : ItemRecord) : Bool :=
  r.notBefore != 0 && r.expiry != 0 && decide (r.expiry.toNat ≤ r.notBefore.toNat)

end ItemRecord

namespace State

/-! ## Admission -/

/-- The target streams of a record: its target bits among the enabled streams (R34). -/
def targets (s : State) (r : ItemRecord) : List StreamId :=
  (List.finRange 4).filter fun n => r.targets.getLsbD n.val && s.enabled n

/-- An expiry time that the station time has reached while the clock is SET (R35, R42). -/
def expired (s : State) (expiry : Word) : Bool :=
  s.clock.origin.isSome && expiry != 0 && decide (expiry.toNat ≤ s.clock.time.toNat)

/-- Check 7 (R35, R55): WRAP, WINDOW or none. -/
def rangeFault (s : State) (r : ItemRecord) : Option RejectReason :=
  if wrapsTop r.address.toNat r.length then some .wrap
  else if (containingWindow s.port.windows r.desk r.address.toNat (r.address.toNat + r.length - 1)).isNone then
    some .window
  else none

/-- The lane of an item on one stream (R68). -/
def planLane (s : State) (r : ItemRecord) (m : Nat) (n : StreamId) : LanePlan :=
  let p := periodCells r.tenths (s.rate n)
  { stream := n, period := p, countdown := initialCountdown r.delayTenths (s.rate n) p, load := laneLoad m p,
    clamped := periodClamps r.tenths (s.rate n) || delayClamps r.delayTenths (s.rate n) p }

/-- The resource tests, in order (R36, R68). -/
def missing (s : State) (plans : List LanePlan) : Option Note :=
  if s.freeShadowId.isNone then some .waitShadow
  else if ((List.finRange 96).filter fun i => (s.lane i).isNone).length < plans.length then some .waitLanes
  else if plans.any fun p => decide (s.ceiling p.stream < s.committed p.stream + p.load) then some .waitLoad
  else none

/-- Checks 5 to 8 and the resources, after checks 1 to 4 have passed (R35, R36). -/
def verdictRest (s : State) (r : ItemRecord) (kind : ItemKind) : Verdict :=
  if r.badTime then .reject .badTime r.clamps4
  else if s.expired r.expiry then .reject .tooLate r.clamps4
  else
    match if r.feedName kind then none else s.rangeFault r with
    | some why => .reject why r.clamps4
    | none =>
      let plans := (s.targets r).map (s.planLane r (cellsPerRepetition kind r.length))
      let clamped := r.clamps4 || plans.any fun p => p.clamped
      if plans.any fun p => decide (s.ceiling p.stream < p.load) then .reject .overload clamped
      else
        match s.missing plans with
        | some note => .defer note
        | none => .admitted kind plans clamped

/-- The admission checks and resource tests on a record as read (R34 to R36). -/
def verdict (s : State) (r : ItemRecord) : Verdict :=
  match itemKindOf r.kind with
  | none => .reject .badKind false
  | some kind =>
    if !r.feedName kind && !lengthOk kind r.length then .reject .badLength false
    else if (s.targets r).isEmpty then .reject .noStream false
    else if r.period = 0 then .reject .badPeriod false
    else s.verdictRest r kind

/-- Set a slot's deferral note seen (R30). -/
def setNote (slot : SlotId) (note : Note) (s : State) : State :=
  { s with sweep := { s.sweep with notes := s.sweep.notes.set slot.toNat note slot.isLt } }

/-- A slot's deferral note seen (R30). -/
def noteSeen (s : State) (slot : SlotId) : Note := s.sweep.notes[slot.toNat]'slot.isLt

/-- Where PERIOD_CLAMP is reported from (R158). -/
def visitPlace (slot : SlotId) : FaultWhere :=
  { stream := none, slot := slot, lane := 0xFF, address := BitVec.ofNat 32 (itemOffset slot) }

/-- An ITEM record of the log (R178). -/
def itemEvent (kind : LogKind) (reason : Byte) (r : ItemRecord) (slot : SlotId) : LogEvent :=
  { kind := kind, stream := none, reason := reason, aux := r.desk.setWidth 8, subject := slot.setWidth 16 }

/-- Writes, then a log record when every write ended well (R26, R33; log 14). -/
def writesThenReport (ws : List (Nat × List Byte)) (e : LogEvent) (s : State) : State :=
  match s.writeAll ws with
  | (true, s) => s.report e
  | (false, s) => s

/-- Bytes 28 to 47 of a record just rejected or admitted (R37, R38). -/
def freshFields (reason taken mask : Byte) : List Byte :=
  [reason, taken, Note.none.code, ItemOutcome.none.code, mask, 0, 0, 0] ++ List.replicate 12 0

/-- Rejection (R38). -/
def rejectItem (slot : SlotId) (r : ItemRecord) (why : RejectReason) (clamped : Bool) (s : State) : State :=
  ((s.causeIf clamped .periodClamp (visitPlace slot)).setNote slot .none).writesThenReport
    [(itemOffset slot + 28, freshFields why.code r.request 0), (itemOffset slot, [itemRejected])]
    (itemEvent .itemRejected why.code r slot)

/-- Deferral (R36): ITEM_DEFERRED when the note differs from the one seen. DESIGN CHOICE (log 42, unsafe): the note seen
is set also when the append of ITEM_DEFERRED itself meets BERR, so the record is not tried again while the note stays.
R33 keeps the actions already taken, R156 ends the visit at that transfer, and R36 sets the note after the append. -/
def deferItem (slot : SlotId) (r : ItemRecord) (note : Note) (s : State) : State :=
  match s.writeArea (itemOffset slot + 30) [note.code] with
  | (false, s) => s
  | (true, s) =>
    (if s.noteSeen slot = note then s else s.report (itemEvent .itemDeferred note.code r slot)).setNote slot note

/-- The shadow entry of an admitted item (R37, R60). -/
def shadowOfRecord (slot : SlotId) (r : ItemRecord) (kind : ItemKind) : Shadow :=
  { slot := slot, kind := kind, cls := r.cls, desk := r.desk, feedName := r.feedName kind, address := r.address,
    length := r.length, m := cellsPerRepetition kind r.length, period := r.tenths, notBefore := r.notBefore,
    expiry := r.expiry, limit := r.limit, taken := r.request, outcome := .none, closing := none, airTotal := 0,
    slipTotal := 0, lastAired := 0 }

/-- A lane of an admitted item (R68). -/
def laneOfPlan (e : ShadowId) (r : ItemRecord) (m : Nat) (p : LanePlan) : Lane :=
  { source := .item e, stream := p.stream, cls := r.cls, period := p.period, m := m, countdown := (p.countdown : Int),
    air := 0, load := p.load, repetition := .idle, closing := none, fresh := true }

/-- Create the shadow entry and all of its lanes (R61, R68). -/
def createItem (e : ShadowId) (slot : SlotId) (r : ItemRecord) (kind : ItemKind) (plans : List LanePlan)
    (s : State) : State :=
  plans.foldl (fun s p => s.createLane (laneOfPlan e r (cellsPerRepetition kind r.length) p))
    (s.setShadow e (some (shadowOfRecord slot r kind)))

/-- Admission (R37). -/
def admitItem (slot : SlotId) (r : ItemRecord) (kind : ItemKind) (plans : List LanePlan) (clamped : Bool)
    (s : State) : State :=
  match s.freeShadowId with
  | none => s
  | some e =>
    let s := ((s.causeIf clamped .periodClamp (visitPlace slot)).createItem e slot r kind plans).setNote slot .none
    s.writesThenReport
      [(itemOffset slot + 28, freshFields 0 r.request (s.laneMask e)), (itemOffset slot, [itemActive])]
      (itemEvent .itemAdmitted 0 r slot)

/-- A visit to a POSTED record with no shadow entry (R32). -/
def visitPosted (slot : SlotId) (r : ItemRecord) (s : State) : State :=
  match s.verdict r with
  | .reject why clamped => s.rejectItem slot r why clamped
  | .defer note => s.deferItem slot r note
  | .admitted kind plans clamped => s.admitItem slot r kind plans clamped

/-! ## Requests on an active item -/

/-- One lane of an amended item: its present state, its new P and load, and whether the conversion clamped (R69). -/
structure AmendPlan where
  id : LaneId
  lane : Lane
  period : Nat
  load : Nat
  clamped : Bool
  deriving DecidableEq, Repr

/-- The lanes of an item with the P and load an amend period gives them (R69). -/
def amendPlans (s : State) (e : ShadowId) (tenths : Nat) : List AmendPlan :=
  (s.lanesWhere fun l => l.source == .item e).filterMap fun i =>
    (s.lane i).map fun l =>
      let p := periodCells tenths (s.rate l.stream)
      { id := i, lane := l, period := p, load := laneLoad l.m p, clamped := periodClamps tenths (s.rate l.stream) }

/-- Every stream of the item can take its lane's new load (R69). -/
def amendFits (s : State) (plans : List AmendPlan) : Bool :=
  plans.all fun p => decide (s.committed p.lane.stream - p.lane.load + p.load ≤ s.ceiling p.lane.stream)

/-- Give one lane its amended class, P, countdown and load (R69). -/
def amendLane (cls : Nat) (p : AmendPlan) (s : State) : State :=
  s.reRateLane p.id p.lane { p.lane with
    cls := cls, period := p.period, load := p.load, countdown := min p.lane.countdown (p.period : Int) }

/-- AMEND (R41, R69): its outcome and effect. -/
def amendItem (e : ShadowId) (slot : SlotId) (r : ItemRecord) (s : State) : ItemOutcome × State :=
  if r.amendPeriod = 0 then (.ignored, s)
  else if 3 < r.amendClass then (.ignored, s)
  else
    let tenths := min r.amendPeriod Config.maxTenths
    let plans := s.amendPlans e tenths
    let clamped := decide (Config.maxTenths < r.amendPeriod) || plans.any fun p => p.clamped
    let s := s.causeIf clamped .periodClamp (visitPlace slot)
    if !s.amendFits plans then (.refusedLoad, s)
    else
      let s := plans.foldl (fun s p => s.amendLane r.amendClass p) s
      (.done,
        match s.shadowAt e with
        | none => s
        | some sh => s.setShadow e (some { sh with cls := r.amendClass, period := tenths }))

/-- The action of a request code (R39 to R41); IGNORED without effect when the item is already closing. -/
def requestAction (e : ShadowId) (sh : Shadow) (slot : SlotId) (r : ItemRecord) (s : State) : ItemOutcome × State :=
  if sh.closing.isSome then (.ignored, s)
  else
    match r.code.toNat with
    | 1 => (.done, s.closeItem .withdrawn e)
    | 2 => s.amendItem e slot r
    | _ => (.ignored, s)

/-- Record a request taken in the shadow entry (R39). -/
def takeRequest (e : ShadowId) (number : Byte) (o : ItemOutcome) (s : State) : State :=
  match s.shadowAt e with
  | none => s
  | some sh => s.setShadow e (some { sh with taken := number, outcome := o })

/-- Request handling (R39); whether every transfer ended well. DESIGN CHOICE (log 38, unsafe): R39 gives the writes of
byte 29 and byte 31 neither an order nor a cut; byte 29 goes first and byte 31 in a transfer of its own, so a BERR can
leave the number without the outcome. -/
def itemRequest (e : ShadowId) (sh : Shadow) (slot : SlotId) (r : ItemRecord) (s : State) : Bool × State :=
  if r.request = sh.taken then (true, s)
  else
    let a := s.requestAction e sh slot r
    (a.2.takeRequest e r.request a.1).writeAll
      [(itemOffset slot + 29, [r.request]), (itemOffset slot + 31, [a.1.code])]

/-- The expiry check (R42). -/
def checkExpiry (e : ShadowId) (sh : Shadow) (s : State) : State :=
  if s.expired sh.expiry then s.closeItem .expired e else s

/-- Bytes 32 to 47 of an active item's record (R43). -/
def backFields (mask : Byte) (sh : Shadow) : List Byte :=
  [mask, 0, 0, 0] ++ le32 (BitVec.ofNat 32 sh.airTotal) ++ le32 (BitVec.ofNat 32 sh.slipTotal) ++ le32 sh.lastAired

/-- Write-back (R43). -/
def writeBack (e : ShadowId) (slot : SlotId) (s : State) : State :=
  match s.shadowAt e with
  | none => s
  | some sh => (s.writeArea (itemOffset slot + 32) (backFields (s.laneMask e) sh)).2

/-- The retirement of an item that a visit's closings left without a lane (R40, R44); `had` says whether it had one
before. -/
def settleItem (e : ShadowId) (had : Bool) (s : State) : State :=
  if had && !s.hasLane (.item e) then
    match (s.shadowAt e).bind fun sh => sh.closing with
    | none => s
    | some why => s.retireItem e why.retireReason
  else s

/-- A visit to an ACTIVE record with a shadow entry (R32, R39, R42, R43); a request write that meets BERR ends its
sequence there (log 14). -/
def visitActive (e : ShadowId) (sh : Shadow) (slot : SlotId) (r : ItemRecord) (s : State) : State :=
  let had := s.hasLane (.item e)
  let after :=
    match s.itemRequest e sh slot r with
    | (false, s) => s
    | (true, s) => (s.checkExpiry e sh).writeBack e slot
  (after.setNote slot .none).settleItem e had

/-- An ACTIVE record with no shadow entry (R45). DESIGN CHOICE (log 39, unsafe): R45 does not say what a write that
meets BERR does to the log record; no ITEM_RETIRED is appended then, unlike after a freed entry (R44). -/
def orphanItem (slot : SlotId) (r : ItemRecord) (s : State) : State :=
  (s.setNote slot .none).writesThenReport
    [(itemOffset slot + 28,
        [RetireReason.orphaned.code, r.request, Note.none.code, ItemOutcome.none.code, 0, 0, 0, 0]),
      (itemOffset slot, [itemRetired])]
    (retiredEvent slot r.desk .orphaned)

/-- Disownment (R46). -/
def disownItem (e : ShadowId) (slot : SlotId) (r : ItemRecord) (s : State) : State :=
  let had := s.hasLane (.item e)
  let s := if r.state = itemPosted then s else s.setNote slot .none
  (s.closeItem .disowned e).settleItem e had

/-- What a visit does on the record read (R32). -/
def visitRecord (slot : SlotId) (r : ItemRecord) (s : State) : State :=
  match s.shadowOf slot with
  | none =>
    if r.state = itemPosted then s.visitPosted slot r
    else if r.state = itemActive then s.orphanItem slot r
    else s.setNote slot .none
  | some e =>
    match s.shadowAt e with
    | none => s
    | some sh => if r.state = itemActive then s.visitActive e sh slot r else s.disownItem e slot r

/-- The end of a visit: the position advances, from 255 to 0, and the visits owed fall by one (R31). -/
def endVisit (s : State) : State :=
  { s with sweep := { s.sweep with position := s.sweep.position + 1, owed := s.sweep.owed - 1 } }

/-- A visit (R32, R33). -/
def visit (s : State) : State :=
  match s.readArea (itemOffset s.sweep.position) Config.itemSize with
  | (none, s) => s.endVisit
  | (some bs, s) => (s.visitRecord s.sweep.position (itemRecordOf bs)).endVisit

/-- A visit, request or message may start: RUNNING with no halt pending (R156, log 11). -/
def mayStart (s : State) : Bool := decide (s.control.part = .running) && s.conds.haltPending.isNone

/-- The visit owed at the sweep position, or nothing when none is owed or none may start (R31). -/
def visitStep (s : State) : State := if s.mayStart && decide (0 < s.sweep.owed) then s.visit else s

/-- STOP comes at no transfer: the work of a command that no STOP falls into. -/
def noStop : State → Bool := fun _ => false

/-- A part of a poll that does not start once STOP has been accepted; `stopped` says in which states it has
(R57, R107, R146). -/
def unlessStopped (stopped : State → Bool) (f : State → State) (s : State) : State := if stopped s then s else f s

end State

/-- SWEEP_VISIT (R31, R32). -/
def execSweepVisit (env : Env) (s : State) : Outcome := .next (withBus env State.visitStep s)

end Sys2Proof.Machine
end

