-- ==== Sys2Proof/Machine/Announce.lean ====
section
/-! DEFINITION. The announcement controller (R91 to R119): positions on a stream, beginning, ending, resuming, and
the board request records. Commands ANNOUNCEMENT_POLL and HOLD_EXPIRED. -/

namespace Sys2Proof.Machine

/-! ## Positions on one stream -/

namespace AnnStream

/-- The level of the stream (R93). -/
def level (a : AnnStream) : Nat :=
  match a.current with
  | none => 0
  | some p => p.level

/-- Every position held, CURRENT first. -/
def all (a : AnnStream) : List Position := a.current.toList ++ a.suspended ++ a.waiting

/-- A position joins the waiting list after every entry of its level or above and before every entry of lower level
(R97). -/
def insertWaiting (p : Position) : List Position → List Position
  | [] => [p]
  | q :: qs => if p.level ≤ q.level then q :: insertWaiting p qs else p :: q :: qs

/-- The waiting entry that a displacement takes: lowest level, among equals the latest arrival (R100). -/
def lowestWaiting : List Position → Option Position
  | [] => none
  | q :: qs =>
    match lowestWaiting qs with
    | none => some q
    | some w => if q.level < w.level ∨ (q.level = w.level ∧ w.arrival < q.arrival) then some q else some w

/-- How many of the positions held arrived before one (R92). -/
def earlier (a : AnnStream) (p : Position) : Nat := (a.all.filter fun q => decide (q.arrival < p.arrival)).length

/-- Renumber one position by its place in arrival order (R92). -/
def renumber (a : AnnStream) (p : Position) : Position := { p with arrival := a.earlier p }

/-- The arrival counter after a new position has taken its number: it rises by 1, and where it would pass FFFFFFFFH
the positions held are renumbered from 0 in arrival order (R92). -/
def countArrival (a : AnnStream) : AnnStream :=
  if a.arrivals + 1 ≤ Config.countLimit then { a with arrivals := a.arrivals + 1 }
  else
    { current := a.current.map a.renumber, suspended := a.suspended.map a.renumber,
      waiting := a.waiting.map a.renumber, arrivals := a.all.length }

/-- A new position at the arrival counter's number (R92). -/
def newPosition (a : AnnStream) (e : AnnId) (level : Nat) : Position :=
  { entry := e, level := level, arrival := a.arrivals }

end AnnStream

/-- What a stream did with an announcement offered to it (R97). -/
inductive Offer where
  | refused
  | current (pushed : Option Position)
  | waiting (displaced : Option Position)
  deriving DecidableEq, Repr

namespace AnnStream

/-- Offer announcement e at a level (R97). -/
def offer (e : AnnId) (level : Nat) (a : AnnStream) : Offer × AnnStream :=
  if a.level = 0 then (.current none, { a with current := some (a.newPosition e level) }.countArrival)
  else if a.level < level then
    (.current a.current,
      { a with current := some (a.newPosition e level), suspended := a.current.toList ++ a.suspended }.countArrival)
  else if a.waiting.length < Config.maxWaiting then
    (.waiting none, { a with waiting := insertWaiting (a.newPosition e level) a.waiting }.countArrival)
  else
    match lowestWaiting a.waiting with
    | none => (.refused, a)
    | some w =>
      if w.level < level then
        (.waiting (some w),
          { a with waiting := insertWaiting (a.newPosition e level) (a.waiting.erase w) }.countArrival)
      else (.refused, a)

/-- Remove the positions of the announcements in a group (R101, R104). -/
def remove (g : AnnId → Bool) (a : AnnStream) : AnnStream :=
  { a with
    current := a.current.filter fun p => !g p.entry
    suspended := a.suspended.filter fun p => !g p.entry
    waiting := a.waiting.filter fun p => !g p.entry }

/-- The CURRENT entry is of the group. -/
def loses (g : AnnId → Bool) (a : AnnStream) : Bool :=
  match a.current with
  | none => false
  | some p => g p.entry

/-- The stream's CURRENT entry has gone: it resumes from its stack or its waiting list, or falls to level 0 (R102). -/
def resume (a : AnnStream) : Option OnReason × AnnStream :=
  match a.suspended, a.waiting with
  | [], [] => (none, { a with current := none })
  | [], w :: ws => (some .promote, { a with current := some w, waiting := ws })
  | t :: ts, [] => (some .resume, { a with current := some t, suspended := ts })
  | t :: ts, w :: ws =>
    if t.level < w.level then (some .promote, { a with current := some w, waiting := ws })
    else (some .resume, { a with current := some t, suspended := ts })

end AnnStream

/-! ## Values of a BEGIN -/

/-- A BEGIN with its values settled (R94 to R96). -/
structure BeginValues where
  origin : Origin
  number : Byte
  kind : BitVec 4
  level : Nat
  duration : Nat
  mask : BitVec 4
  deriving DecidableEq, Repr

/-- A duration as taken: 0 is the default hold, above 3600 is 3600 (R95, R96). -/
def takenDuration (defaultHold duration : Nat) : Nat :=
  if duration = 0 then defaultHold else min duration Config.maxHold

/-- The announcement subject of a log record (R116, R191). -/
def annSubject (o : Origin) (number : Byte) : Half :=
  (if o = .feed then 0x80#8 else 0x00#8) ++ number

/-- A log record about an announcement (R116). -/
def annEvent (kind : LogKind) (stream : Option StreamId) (reason : Byte) (aux : Nat) (o : Origin) (number : Byte) :
    LogEvent :=
  { kind := kind, stream := stream, reason := reason, aux := BitVec.ofNat 8 aux, subject := annSubject o number }

namespace State

/-! ## Changes of positions -/

/-- The streams of a mask, in order 0 to 3. -/
def maskStreams (mask : BitVec 4) : List StreamId := (List.finRange 4).filter fun n => mask.getLsbD n.val

/-- The enabled streams as a mask (R95). -/
def enabledMask (s : State) : BitVec 4 :=
  (List.finRange 4).foldl (fun m n => if s.enabled n then m ||| BitVec.ofNat 4 (2 ^ n.val) else m) (0 : BitVec 4)

/-- The controller sets a stream's burst counter when its CURRENT entry has changed while RUNNING or HELD (R113). -/
def setBurst (n : StreamId) (s : State) : State :=
  if s.control.part.onAir then s.setUnit n { s.unit n with burst := (s.unit n).config.burst } else s

/-- The entry of the announcement of an origin and number (R91). -/
def findAnnouncement (s : State) (o : Origin) (number : Byte) : Option AnnId :=
  (List.finRange 16).find? fun e =>
    match s.announcement e with
    | none => false
    | some a => a.origin == o && a.number == number

/-- The lowest-numbered free entry (R91). -/
def freeAnnouncement (s : State) : Option AnnId := (List.finRange 16).find? fun e => (s.announcement e).isNone

/-- Change the stream mask of an entry in use. -/
def setMask (e : AnnId) (mask : BitVec 4) (s : State) : State :=
  match s.announcement e with
  | none => s
  | some a => s.setAnnouncement e (some { a with mask := mask })

/-- The stream mask of an entry, empty when it is free. -/
def annMask (s : State) (e : AnnId) : BitVec 4 :=
  match s.announcement e with
  | none => 0
  | some a => a.mask

/-- The displaced announcement loses its position on a stream; one left with no position ends (R100). The record of
its ending, if any. -/
def displace (n : StreamId) (w : Position) (s : State) : List LogEvent × State :=
  match s.announcement w.entry with
  | none => ([], s)
  | some a =>
    let left := a.mask &&& ~~~(BitVec.ofNat 4 (2 ^ n.val))
    if left = 0 then
      ([annEvent .alertEnded none EndReason.displaced.code a.level a.origin a.number], s.setAnnouncement w.entry none)
    else ([], s.setMask w.entry left)

/-- The ALERT_SUSPENDED record of a position pushed on a stream (R116). -/
def suspendedEvents (s : State) (n : StreamId) : Option Position → List LogEvent
  | none => []
  | some p =>
    match s.announcement p.entry with
    | none => []
    | some a => [annEvent .alertSuspended (some n) 0 p.level a.origin a.number]

/-- The ALERT_ON_STREAM record of the CURRENT entry of a stream (R116). -/
def onStreamEvents (s : State) (n : StreamId) (why : OnReason) : List LogEvent :=
  match (s.positions n).current with
  | none => []
  | some p =>
    match s.announcement p.entry with
    | none => []
    | some a => [annEvent .alertOnStream (some n) why.code p.level a.origin a.number]

/-- Offer entry e to stream n at its level there (R97, R99): the records it leaves, and the state. -/
def offerStream (e : AnnId) (n : StreamId) (level : Nat) (s : State) : List LogEvent × State :=
  let o := (s.positions n).offer e level
  match o.1 with
  | .refused => ([], s)
  | .current pushed =>
    let s1 := ((s.setPositions n o.2).setMask e (s.annMask e ||| BitVec.ofNat 4 (2 ^ n.val))).setBurst n
    (s1.suspendedEvents n pushed ++ s1.onStreamEvents n .begun, s1)
  | .waiting displaced =>
    let s1 := (s.setPositions n o.2).setMask e (s.annMask e ||| BitVec.ofNat 4 (2 ^ n.val))
    match displaced with
    | none => ([], s1)
    | some w => s1.displace n w

/-- Offer entry e to streams in order (R99). -/
def offerStreams (e : AnnId) (levelOn : StreamId → Nat) : List StreamId → State → List LogEvent × State
  | [], s => ([], s)
  | n :: ns, s =>
    let a := s.offerStream e n (levelOn n)
    let b := offerStreams e levelOn ns a.2
    (a.1 ++ b.1, b.2)

/-- Announcement e is CURRENT on some stream. -/
def isCurrent (s : State) (e : AnnId) : Bool :=
  (List.finRange 4).any fun n =>
    match (s.positions n).current with
    | none => false
    | some p => p.entry == e

/-! ## Beginning -/

/-- A BEGIN that renews (R98). -/
def renew (e : AnnId) (duration : Nat) (s : State) : State :=
  match s.announcement e with
  | none => s
  | some a => s.setAnnouncement e (some { a with hold := duration, duration := duration })

/-- The entry that a BEGIN reserves (R94). -/
def reserved (s : State) (v : BeginValues) : Announcement :=
  { origin := v.origin, number := v.number, kind := v.kind, level := v.level, duration := v.duration,
    hold := v.duration, mask := 0, beginTime := s.stationTime }

/-- The ALERT_REFUSED record (R116). -/
def refusedEvent (o : AnnOutcome) (level : Nat) (origin : Origin) (number : Byte) : LogEvent :=
  annEvent .alertRefused none o.code level origin number

/-- The outcome of a BEGIN whose streams have been offered, and its release or records (R94 step 5, R116). -/
def beginOutcome (e : AnnId) (v : BeginValues) (sent : Nat) (records : List LogEvent) (s : State) :
    AnnOutcome × State :=
  if s.annMask e = 0 then
    (.refusedStreams, (s.setAnnouncement e none).report (refusedEvent .refusedStreams sent v.origin v.number))
  else
    (if s.isCurrent e then .begun else .queued,
      s.reportAll (annEvent .alertBegun none ((s.annMask e).setWidth 8) v.level v.origin v.number :: records))

/-- Steps 2 to 5 of a BEGIN (R94), its values settled; `sent` is the level as read or sent, `levelOn` its level on
each stream. -/
def beginAnnouncement (v : BeginValues) (sent : Nat) (levelOn : StreamId → Nat) (s : State) : AnnOutcome × State :=
  match s.findAnnouncement v.origin v.number with
  | some e => (.renewed, s.renew e v.duration)
  | none =>
    match s.freeAnnouncement with
    | none => (.refusedTable, s.report (refusedEvent .refusedTable sent v.origin v.number))
    | some e =>
      let o := (s.setAnnouncement e (some (s.reserved v))).offerStreams e levelOn (maskStreams v.mask)
      o.2.beginOutcome e v sent o.1

/-- A BEGIN refused as BAD (R94, R116). -/
def refuseBad (level : Nat) (origin : Origin) (number : Byte) (s : State) : AnnOutcome × State :=
  (.bad, s.report (refusedEvent .bad level origin number))

/-- Where a board request's VALUE_CLAMP is reported from (R158). -/
def requestPlace (r : RequestId) : FaultWhere :=
  { stream := none, slot := 0xFF, lane := 0xFF, address := BitVec.ofNat 32 (requestOffset r) }

/-- The values of a board BEGIN after the checks (R95). -/
def boardValues (s : State) (q : AnnRequest) : BeginValues :=
  { origin := .board, number := q.number, kind := q.kind, level := min q.level 7,
    duration := takenDuration s.general.defaultHold q.duration, mask := q.mask &&& s.enabledMask }

/-- A board BEGIN (R94, R95). -/
def boardBegin (r : RequestId) (q : AnnRequest) (s : State) : AnnOutcome × State :=
  if q.mask &&& s.enabledMask = 0 ∨ q.level = 0 ∨ q.number = 0 then s.refuseBad q.level .board q.number
  else
    (s.causeIf (decide (7 < q.level) || decide (Config.maxHold < q.duration)) .valueClamp
      (requestPlace r)).beginAnnouncement (s.boardValues q) q.level fun _ => min q.level 7

/-- The level of a feed announcement on a stream: at most the stream's feed ceiling (R96). -/
def feedLevel (s : State) (level : Nat) (n : StreamId) : Nat := min (min level 7) (s.unit n).config.feedCeiling

/-- A feed BEGIN (R94, R96) over the matched streams. -/
def feedBegin (number : Byte) (level : Nat) (kind : BitVec 4) (duration : Nat) (matched : BitVec 4) (s : State) :
    AnnOutcome × State :=
  if level = 0 ∨ number = 0 then s.refuseBad level .feed number
  else
    (s.causeIf (decide (7 < level) || decide (Config.maxHold < duration)
        || (maskStreams matched).any fun n => decide ((s.unit n).config.feedCeiling < min level 7)) .valueClamp
      nowhere).beginAnnouncement
      { origin := .feed, number := number, kind := kind, level := min level 7,
        duration := takenDuration s.general.defaultHold duration, mask := matched }
      level (s.feedLevel level)

/-! ## Ending -/

/-- The ALERT_ENDED records of a group, in ascending entry order (R104, R116). -/
def endedEvents (s : State) (g : AnnId → Bool) (why : EndReason) : List LogEvent :=
  (List.finRange 16).filterMap fun e =>
    match s.announcement e with
    | none => none
    | some a => if g e then some (annEvent .alertEnded none why.code a.level a.origin a.number) else none

/-- Free the table entries of a group (R101, R104). -/
def freeGroup (g : AnnId → Bool) (s : State) : State :=
  { s with ann := { s.ann with table := Vector.ofFn fun e => if g e then none else s.ann.table[e] } }

/-- Remove a group's positions from one stream, which resumes when it lost its CURRENT entry (R101, R102): the
records of the resumption. -/
def endOnStream (g : AnnId → Bool) (n : StreamId) (s : State) : List LogEvent × State :=
  let a := (s.positions n).remove g
  if (s.positions n).loses g then
    let r := a.resume
    let s1 := (s.setPositions n r.2).setBurst n
    (match r.1 with
      | none => []
      | some why => s1.onStreamEvents n why, s1)
  else ([], s.setPositions n a)

/-- Remove a group's positions from streams in order. -/
def endOnStreams (g : AnnId → Bool) : List StreamId → State → List LogEvent × State
  | [], s => ([], s)
  | n :: ns, s =>
    let a := s.endOnStream g n
    let b := endOnStreams g ns a.2
    (a.1 ++ b.1, b.2)

/-- End a group of announcements together (R101, R104), records last (R116). -/
def endGroup (g : AnnId → Bool) (why : EndReason) (s : State) : State :=
  let ended := s.endedEvents g why
  let r := (s.freeGroup g).endOnStreams g (List.finRange 4)
  r.2.reportAll (ended ++ r.1)

/-- An END (R103): whether the table held the announcement. -/
def endAnnouncement (o : Origin) (number : Byte) (s : State) : Bool × State :=
  match s.findAnnouncement o number with
  | none => (false, s)
  | some e => (true, s.endGroup (fun i => i == e) .ended)

/-- The announcements of an origin (R104). -/
def ofOrigin (s : State) (o : Origin) (e : AnnId) : Bool :=
  match s.announcement e with
  | none => false
  | some a => a.origin == o

/-- The announcements whose remaining hold has reached 0 (R105). -/
def holdOver (s : State) (e : AnnId) : Bool :=
  match s.announcement e with
  | none => false
  | some a => a.hold == 0

/-- The expiries that are due while RUNNING, those of a 1 s tick already taken (R104, R105, log 10). -/
def settleHolds (s : State) : State :=
  if s.control.part = .running ∧ (List.finRange 16).any s.holdOver then s.endGroup s.holdOver .expired else s

/-! ## Board request records -/

/-- Carry out a request (R108). -/
def carryOut (r : RequestId) (q : AnnRequest) (s : State) : AnnOutcome × State :=
  match q.op.toNat with
  | 1 => s.boardBegin r q
  | 2 =>
    let e := s.endAnnouncement .board q.number
    (if e.1 then .ended else .notFound, e.2)
  | 3 => (.ended, s.endGroup (s.ofOrigin .board) .endAll)
  | _ => (.bad, s)

/-- The controller's last-taken number of a record (R106). -/
def setAnnTaken (r : RequestId) (b : Byte) (s : State) : State :=
  { s with ann := { s.ann with taken := s.ann.taken.set r b } }

/-- The answer owed for a record (R106). -/
def setAnnOwed (r : RequestId) (o : Option AnnOwed) (s : State) : State :=
  { s with ann := { s.ann with owed := s.ann.owed.set r o } }

/-- Write an answer, outcome first; it is owed while a write of it meets BERR (R109). -/
def answerRequest (r : RequestId) (o : AnnOwed) (s : State) : State :=
  match s.writeAll [(requestOffset r + 3, [o.outcome.code]), (requestOffset r + 1, [o.number])] with
  | (true, s) => s.setAnnOwed r none
  | (false, s) => s.setAnnOwed r (some o)

/-- What the poll does with one record (R107). After a log append that met BERR the answer, a write-back to follow it, is
not made (R26, R156); DEDUCED (log 13, unsafe): it is owed then, as after a write of its own that met BERR (R109). -/
def pollRecord (r : RequestId) (q : AnnRequest) (s : State) : State :=
  match s.ann.owed[r] with
  | some o => s.answerRequest r o
  | none =>
    if q.request = s.ann.taken[r] then s
    else
      let c := (s.setAnnTaken r q.request).carryOut r q
      let o : AnnOwed := { outcome := c.1, number := q.request }
      if s.endedWell c.2 then c.2.answerRequest r o else c.2.setAnnOwed r (some o)

/-- The records in order; the rest wait once a halt is pending or STOP has been accepted (R107, R110, R118). -/
def pollRecords (stopped : State → Bool) (bs : List Byte) : List RequestId → State → State
  | [], s => s
  | r :: rs, s =>
    if s.mayStart && !stopped s then pollRecords stopped bs rs (s.pollRecord r (annRequestAt bs r)) else s

/-- The announcement poll of this tick is over (R107). -/
def clearAnnDue (s : State) : State := { s with time := { s.time with annDue := false } }

/-- The poll: one burst of 128 bytes, then the records in order (R107, R109). -/
def announcementPoll (stopped : State → Bool) (s : State) : State :=
  match s.clearAnnDue.readArea Config.offRequests 128 with
  | (none, s) => s
  | (some bs, s) => s.pollRecords stopped bs (List.finRange 8)

/-- An action that starts only while RUNNING with no halt pending, after what a tick already taken has brought; what
that brings may set a halt pending (R105, R140, R156, log 10). -/
def startAfter (settle action : State → State) (s : State) : State :=
  if s.mayStart then
    if (settle s).mayStart then action (settle s) else settle s
  else s

/-- The announcement poll of the last tick, or nothing when none is due or none may start (R107); an expiry that is due
comes first (R105). -/
def announcementStep (stopped : State → Bool) (s : State) : State :=
  if s.time.annDue then s.startAfter .settleHolds (unlessStopped stopped (announcementPoll stopped)) else s

end State

/-- ANNOUNCEMENT_POLL (R107). -/
def execAnnouncementPoll (env : Env) (s : State) : Outcome :=
  .next (withBus env (State.announcementStep State.noStop) s)

/-- HOLD_EXPIRED: every announcement whose hold is 0 ends, together, while RUNNING (R104, R105, log 10). -/
def execHoldExpired (env : Env) (s : State) : Outcome := .next (withBus env State.settleHolds s)

end Sys2Proof.Machine
end

