-- ==== Sys2Proof/Machine/Clock.lean ====
section
/-! DEFINITION. Ticks, the station clock, the clock-set record and feed offers (R142 to R150). Commands TICK_100MS,
TICK_1S and CLOCK_SET_POLL. -/

namespace Sys2Proof.Machine

namespace State

/-! ## Ticks -/

/-- The time base's own counting at a 100 ms tick: the cycle count starts again, and every tenth tick is a 1 s tick
(R142, log 9). -/
def countTenth (s : State) : State :=
  { s with time := { s.time with
      cycles := 0
      tenths := if s.time.tenths = 9 then 0 else s.time.tenths + 1
      secondDue := s.time.secondDue || s.time.tenths == 9 } }

/-- What a 100 ms tick brings the mechanisms while RUNNING: 32 visits owed, the polls and the status write due
(R31, R143, log 8). -/
def owePolls (s : State) : State :=
  { s with
    sweep := { s.sweep with owed := satAdd s.sweep.owed 32 Config.maxVisitsOwed }
    time := { s.time with annDue := true, clockDue := true, windowDue := true, statusDue := true } }

/-- The station clock's advance at a 1 s tick (R144). -/
def advanceClock (s : State) : State :=
  if s.clock.origin.isSome then { s with clock := { s.clock with time := s.clock.time + 1 } } else s

/-- Every remaining hold falls by 1 (R105). -/
def lowerHolds (s : State) : State :=
  { s with ann := { s.ann with table := s.ann.table.map fun a => a.map fun a => { a with hold := a.hold - 1 } } }

/-- Every HELD entry's remaining life falls by 1 (R140). -/
def lowerLives (s : State) : State :=
  { s with engine := { s.engine with store := s.engine.store.map fun x =>
      match x with
      | .held y => .held { y with life := y.life - 1 }
      | .free => .free
      | .releasing => .releasing } }

/-- The silence counter rises by 1, stopping at the silence limit (R128). -/
def countSilence (s : State) : State :=
  { s with receiver := { s.receiver with silence := satAdd s.receiver.silence 1 s.general.silenceLimit } }

/-- The 1 s tick has been taken (log 9). -/
def clearSecond (s : State) : State := { s with time := { s.time with secondDue := false } }

/-- A 1 s tick (R143): the clock advances; while RUNNING the holds, the lives and the silence counter move too. -/
def secondTick (s : State) : State :=
  let s := s.clearSecond.advanceClock
  if s.control.part = .running then s.lowerHolds.lowerLives.countSilence else s

/-! ## Setting the clock -/

/-- A board offer is honoured (R145). -/
def boardHonoured (s : State) : Bool :=
  match s.clock.source with
  | .localOnly => true
  | .feed => false
  | .auto => s.receiver.feed != .live

/-- A feed offer is honoured (R145). -/
def feedHonoured (s : State) : Bool :=
  match s.clock.source with
  | .localOnly => false
  | .feed | .auto => true

/-- An honoured offer sets t, the clock state and the origin (R145). -/
def setClock (o : Origin) (t : Word) (s : State) : State :=
  { s with clock := { s.clock with origin := some o, time := t } }

/-- Set the local offset (R148). -/
def setOffset (k : Int) (s : State) : State := { s with clock := { s.clock with offset := k } }

/-- The CLOCK_SET record (R149): the new origin, the clock state before, the request number or 0. -/
def clockSetEvent (o : Origin) (before : Option Origin) (number : Byte) : LogEvent :=
  { kind := .clockSet, stream := none, reason := originCode (some o), aux := originCode before,
    subject := number.setWidth 16 }

/-- The clock's last-taken number (R146). -/
def setClockTaken (b : Byte) (s : State) : State := { s with clock := { s.clock with taken := b } }

/-- The clock's answer owed (R146). -/
def setClockOwed (o : Option ClockOwed) (s : State) : State := { s with clock := { s.clock with owed := o } }

/-- Carry out a board offer (R147). -/
def boardOffer (t : Word) (number : Byte) (s : State) : ClockOutcome × State :=
  if s.boardHonoured then
    (.done, (s.setClock .board t).report (clockSetEvent .board s.clock.origin number))
  else (.ignored, s)

/-- Write the answer, outcome first; it is owed while a write of it meets BERR (R147). -/
def answerClock (o : ClockOwed) (s : State) : State :=
  match s.writeAll [(Config.offClockSet + 2, [o.outcome.code]), (Config.offClockSet + 1, [o.number])] with
  | (true, s) => s.setClockOwed none
  | (false, s) => s.setClockOwed (some o)

/-- The clock-set poll of this tick is over (R146). -/
def clearClockDue (s : State) : State := { s with time := { s.time with clockDue := false } }

/-- What the poll does with the record as read (R146). After an append of CLOCK_SET that met BERR the answer, a
write-back to follow it, is not made (R26, R156); DEDUCED (log 13, unsafe): it is owed then, as after a write of its own
that met BERR (R147). -/
def clockRecord (bs : List Byte) (s : State) : State :=
  match s.clock.owed with
  | some o => s.answerClock o
  | none =>
    if byteAt bs 0 = s.clock.taken then s
    else
      let c := (s.setClockTaken (byteAt bs 0)).boardOffer (le32At bs 4) (byteAt bs 0)
      let o : ClockOwed := { outcome := c.1, number := byteAt bs 0 }
      if s.endedWell c.2 then c.2.answerClock o else c.2.setClockOwed (some o)

/-- The poll: one burst of the record, and what is done with it unless STOP came with the read (R146, R147). -/
def clockPoll (stopped : State → Bool) (s : State) : State :=
  match s.clearClockDue.readArea Config.offClockSet 16 with
  | (none, s) => s
  | (some bs, s) => s.unlessStopped stopped (clockRecord bs)

/-- The clock-set poll of the last tick, or nothing when none is due or none may start (R146). -/
def clockStep (stopped : State → Bool) (s : State) : State :=
  if s.mayStart && s.time.clockDue then s.clockPoll stopped else s

/-- The CLOCK_SET record of a feed offer is due (R148): the clock was UNSET, or had origin BOARD, or the time moves by
2 seconds or more, or the offset changes. -/
def feedSetReported (s : State) (t : Word) (k : Int) : Bool :=
  s.clock.origin != some .feed
    || decide (2 ≤ max s.clock.time.toNat t.toNat - min s.clock.time.toNat t.toNat)
    || s.clock.offset != k

/-- A feed offer (R148): time and offset byte of a KEEPALIVE.
DESIGN CHOICE (log 17): VALUE_CLAMP is caused after the clock is set and before CLOCK_SET is appended. -/
def feedOffer (t : Word) (offset : Byte) (s : State) : State :=
  if s.feedHonoured then
    let k := clampOffset offset
    let s1 := ((s.setClock .feed t).setOffset k).causeIf (decide (k ≠ offset.toInt)) .valueClamp nowhere
    if s.feedSetReported t k then s1.report (clockSetEvent .feed s.clock.origin 0) else s1
  else s

end State

/-- TICK_100MS (R142, R143): counted while RUNNING or HELD, brought to the mechanisms while RUNNING. -/
def execTick100ms (s : State) : Outcome :=
  .next (if s.control.part.onAir then
      (if s.control.part = .running then s.countTenth.owePolls else s.countTenth)
    else s)

/-- TICK_1S (R142, R143): the 1 s tick that the tenth 100 ms tick is, while RUNNING or HELD; nothing when none is due
(log 9). -/
def execTick1s (s : State) : Outcome :=
  .next (if s.control.part.onAir && s.time.secondDue then s.secondTick else s)

/-- CLOCK_SET_POLL (R146). -/
def execClockSetPoll (env : Env) (s : State) : Outcome := .next (withBus env (State.clockStep State.noStop) s)

end Sys2Proof.Machine
end

