-- ==== Sys2Proof/Machine/Feed.lean ====
section
/-! DEFINITION. The contribution feed: receiver, feed state, message engine and feed notice store (R120 to R141).
Commands FEED_CHARACTER, FEED_LOST, FEED_MESSAGE_ACTION and NOTICE_LIFE_EXPIRED. -/

namespace Sys2Proof.Machine

/-! ## Characters and messages -/

/-- Parity of the data bits, the mark bit and the parity bit: the number of 1 bits is odd (R120). -/
def oddOnes (data : Byte) (mark parity : Bool) : Bool :=
  (List.range 8).foldl (fun p i => p ^^ data.getLsbD i) (mark ^^ parity)

/-- The parity bit of a character is wrong (R120, R122). -/
def parityWrong (p : Parity) (data : Byte) (mark parity : Bool) : Bool :=
  match p with
  | .none => false
  | .even => oddOnes data mark parity
  | .odd => !oddOnes data mark parity

/-- The 8-bit sum of a message (R126). -/
def byteSum (bs : List Byte) : Byte := bs.foldl (· + ·) 0

/-- The body length is right for the type (R126). -/
def lengthRight (type : Byte) (n : Nat) : Bool :=
  match type.toNat with
  | 1 => n == 16
  | 2 => n == 5
  | 3 => n == 1
  | 4 => decide (11 ≤ n) && decide (n ≤ 35)
  | 5 => n == 6
  | _ => false

/-- A message of these bytes is complete: sum, type and length (R126). -/
def messageGood (bs : List Byte) : Bool := byteSum bs == 0 && lengthRight (byteAt bs 0) (byteAt bs 1).toNat

/-- The body of a message as assembled. -/
def bodyOf (bs : List Byte) : List Byte := (bs.drop 2).take (byteAt bs 1).toNat

/-- A NOTICE message's control byte has the cancel bit (R136, R193). -/
def noticeCancel (body : List Byte) : Bool := (byteAt body 2).getLsbD 7

/-- A NOTICE message's life in seconds (R136, R194). -/
def noticeLife (body : List Byte) : Nat := (be16At body 3).toNat * 60

/-- A NOTICE message's notice id (R193). -/
def noticeId (body : List Byte) : Half := be16At body 0

/-- The notice a NOTICE message carries (R137, R193, R194). -/
def noticeOf (body : List Byte) : FeedNotice :=
  { id := noticeId body
    urgency := ((byteAt body 2).extractLsb' 0 2).toNat
    location := be16At body 5
    event := be16At body 7
    extent := byteAt body 9
    flags := byteAt body 10
    text := body.drop 11
    life := noticeLife body }

namespace State

/-! ## Feed state -/

/-- Set the feed state (R129). -/
def setFeed (f : FeedState) (s : State) : State := { s with receiver := { s.receiver with feed := f } }

/-- Every feed name in state `a` takes state `b` (R133). -/
def moveNames (a b : NameState) (s : State) : State :=
  { s with engine := { s.engine with
      names := s.engine.names.map fun x => if x.state = a then { x with state := b } else x } }

/-- How many announcements of origin FEED are in the table (R131). -/
def feedCount (s : State) : Nat := ((List.finRange 16).filter (s.ofOrigin .feed)).length

/-- The FEED_LOST record (R131). -/
def feedLostEvent (s : State) : LogEvent :=
  { kind := .feedLost, stream := none, reason := 0, aux := BitVec.ofNat 8 s.feedCount,
    subject := BitVec.ofNat 16 s.general.silenceLimit }

/-- The feed goes LOST (R129, R130). -/
def loseFeed (s : State) : State :=
  let s1 := ((s.setFeed .lost).report s.feedLostEvent).endGroup (s.ofOrigin .feed) .feedLost
  s1.moveNames .current .kept

/-- The 1 s tick that brought the counter to the limit has been taken and the loss has not (R129): LIVE at the limit
while RUNNING. -/
def lossDue (s : State) : Bool :=
  decide (s.control.part = .running) && s.receiver.feed == .live && decide (s.general.silenceLimit ≤ s.receiver.silence)

/-- A loss that is due is taken (R129). -/
def settleLoss (s : State) : State := if s.lossDue then s.loseFeed else s

/-! ## The receiver -/

/-- Where a receiver condition is reported from: the type byte concerned, or 0 (R158). -/
def typePlace (type : Byte) : FaultWhere := { nowhere with address := type.setWidth 32 }

/-- The receiver's state machine in a state, with a matched set and an assembly buffer. -/
def setReceiver (st : ReceiverState) (matched : BitVec 4) (assembly : List Byte) (s : State) : State :=
  { s with receiver := { s.receiver with state := st, matched := matched, assembly := assembly } }

/-- A character with a framing or parity error (R122). -/
def badCharacter (s : State) : State := (s.setReceiver .hunt 0 []).cause .feedChar nowhere

/-- The streams that an address character matches (R124). -/
def addressed (s : State) (code : Byte) : BitVec 4 :=
  (List.finRange 4).foldl
    (fun m n => if s.enabled n ∧ (code = 0xFF ∨ (s.unit n).config.region = code) then m ||| BitVec.ofNat 4 (2 ^ n.val)
      else m) (0 : BitVec 4)

/-- An address character (R124): a message in assembly is discarded as truncated. -/
def addressCharacter (code : Byte) (s : State) : State :=
  let cut := s.receiver.state == .collect && !s.receiver.assembly.isEmpty
  (s.causeIf cut .feedMsg (typePlace (byteAt s.receiver.assembly 0))).setReceiver
    (if s.addressed code = 0 then .skip else .collect) (s.addressed code) []

/-- A message is discarded with FEED_MSG and the receiver enters HUNT (R125, R126). -/
def discardMessage (bs : List Byte) (s : State) : State :=
  (s.setReceiver .hunt s.receiver.matched []).cause .feedMsg (typePlace (byteAt bs 0))

/-- The FEED_OK record (R131). -/
def feedOkEvent (before : FeedState) (type : Byte) : LogEvent :=
  { kind := .feedOk, stream := none, reason := if before = .lost then 2 else 1, aux := 0, subject := type.setWidth 16 }

/-- A message completes: the silence counter restarts, and a feed that was not LIVE becomes LIVE, with FEED_OK
(R126, R129). -/
def feedAlive (type : Byte) (s : State) : State :=
  let s := { s with receiver := { s.receiver with silence := 0 } }
  match s.receiver.feed with
  | .live => s
  | .silent => (s.setFeed .live).report (feedOkEvent .silent type)
  | .lost => ((s.setFeed .live).moveNames .kept .current).report (feedOkEvent .lost type)

/-- A completed message goes to the ready slot, or is lost with FEED_OVERRUN when the slot is full (R127). -/
def toReady (msg : FeedMessage) (s : State) : State :=
  match s.receiver.ready with
  | none => { s with receiver := { s.receiver with ready := some msg } }
  | some _ => s.cause .feedOverrun (typePlace msg.type)

/-- A message ended by its check byte is judged (R126). A completion that comes after the tick at which the counter
reached the limit finds the feed LOST first (R129). -/
def judge (bs : List Byte) (s : State) : State :=
  if messageGood bs then
    ((s.settleLoss.setReceiver .hunt s.receiver.matched []).feedAlive (byteAt bs 0)).toReady
      { type := byteAt bs 0, body := bodyOf bs, matched := s.receiver.matched }
  else s.discardMessage bs

/-- A data character in COLLECT (R125). -/
def collectByte (b : Byte) (s : State) : State :=
  let bs := s.receiver.assembly ++ [b]
  if bs.length = 2 ∧ 40 < b.toNat then s.discardMessage bs
  else if 2 ≤ bs.length ∧ bs.length = (byteAt bs 1).toNat + 3 then s.judge bs
  else s.setReceiver .collect s.receiver.matched bs

/-- A complete character without error (R122, R124, R125). -/
def goodCharacter (data : Byte) (mark : Bool) (s : State) : State :=
  if mark then s.addressCharacter data
  else
    match s.receiver.state with
    | .collect => s.collectByte data
    | .hunt | .skip => s

/-! ## The message engine -/

/-- The feed name that a NAME_SET body carries (R133). -/
def sentName (body : List Byte) : FeedName := { codes := Vector.ofFn fun i => byteAt body i.val, state := .current }

/-- A stream's feed name (R133). -/
def feedName (s : State) (n : StreamId) : FeedName := s.engine.names[n]

/-- The feed names after a NAME_SET (R133). -/
def namesAfter (s : State) (matched : BitVec 4) (body : List Byte) (n : StreamId) : FeedName :=
  if matched.getLsbD n.val then sentName body else s.feedName n

/-- NAME_SET (R133). -/
def nameSet (matched : BitVec 4) (body : List Byte) (s : State) : State :=
  { s with engine := { s.engine with names := Vector.ofFn (s.namesAfter matched body) } }

/-- ALERT_BEGIN (R134). -/
def alertBegin (matched : BitVec 4) (body : List Byte) (s : State) : State :=
  (s.feedBegin (byteAt body 0) (byteAt body 1).toNat ((byteAt body 2).setWidth 4) (be16At body 3).toNat matched).2

/-- ALERT_END (R134). -/
def alertEnd (body : List Byte) (s : State) : State := (s.endAnnouncement .feed (byteAt body 0)).2

/-- KEEPALIVE (R135). -/
def keepalive (body : List Byte) (s : State) : State := s.feedOffer (be32At body 0) (byteAt body 4)

/-- The HELD entry of a notice id (R136). -/
def findNotice (s : State) (id : Half) : Option StoreId :=
  (List.finRange 16).find? fun j =>
    match s.notice j with
    | .held x => x.id == id
    | .free | .releasing => false

/-- The lowest-numbered FREE entry (R137). -/
def freeNotice (s : State) : Option StoreId := (List.finRange 16).find? fun j => s.notice j == .free

/-- The remaining life of a HELD entry. -/
def lifeOf (s : State) (j : StoreId) : Option Nat :=
  match s.notice j with
  | .held x => some x.life
  | .free | .releasing => none

/-- Of entries in ascending order, the HELD one with the least remaining life, the lowest-numbered among equals
(R139). -/
def leastLife (s : State) : List StoreId → Option (StoreId × Nat)
  | [] => none
  | j :: js =>
    match s.lifeOf j, leastLife s js with
    | none, r => r
    | some k, none => some (j, k)
    | some k, some (i, l) => if k ≤ l then some (j, k) else some (i, l)

/-- A HELD entry is released: its id is given up and its lanes are closed (R138). -/
def releaseNotice (j : StoreId) (s : State) : State :=
  let had := s.hasLane (.notice j)
  ((s.setNotice j .releasing).closeNotice j).settleNotice j had

/-- A new notice stored in entry j asks for lanes; one that gets none is dropped, and the entry is RELEASING while
old closing lanes remain, FREE otherwise (R137, R139). -/
def storeNotice (j : StoreId) (x : FeedNotice) (matched : BitVec 4) (s : State) : State :=
  let before := s.lanesWhere fun l => l.source == .notice j
  let s1 := (s.setNotice j (.held x)).askLanes j x matched
  let after := s1.lanesWhere fun l => l.source == .notice j
  if after.length = before.length then
    (s1.setNotice j (if before.isEmpty then .free else .releasing)).dropNotice x .noLane (BitVec.ofNat 8 j.val)
  else s1

/-- A new notice replaces the one of entry j (R139). -/
def replaceNotice (j : StoreId) (x : FeedNotice) (matched : BitVec 4) (s : State) : State :=
  match s.notice j with
  | .held old => ((s.closeNotice j).report (droppedEvent old .replaced)).storeNotice j x matched
  | .free | .releasing => s

/-- A new notice (R137, R139). -/
def newNotice (x : FeedNotice) (matched : BitVec 4) (s : State) : State :=
  match s.freeNotice with
  | some j => s.storeNotice j x matched
  | none =>
    match s.leastLife (List.finRange 16) with
    | none => s.dropNotice x .storeFull 0xFF
    | some (j, k) => if k < x.life then s.replaceNotice j x matched else s.dropNotice x .storeFull 0xFF

/-- An update of the notice of entry j (R137). -/
def updateNotice (j : StoreId) (x : FeedNotice) (matched : BitVec 4) (s : State) : State :=
  match s.notice j with
  | .held old =>
    let had := s.hasLane (.notice j)
    let s1 := s.setNotice j (.held x)
    let s2 :=
      if old.urgency = x.urgency ∧ noticeCells old.text.length = noticeCells x.text.length then s1
      else s1.reRateNotices j x
    (s2.askLanes j x matched).settleNotice j had
  | .free | .releasing => s

/-- A NOTICE message (R136): cancellation, update or new notice. -/
def noticeMessage (matched : BitVec 4) (body : List Byte) (s : State) : State :=
  if noticeCancel body || noticeLife body == 0 then
    match s.findNotice (noticeId body) with
    | none => s
    | some j => s.releaseNotice j
  else
    match s.findNotice (noticeId body) with
    | some j => s.updateNotice j (noticeOf body) matched
    | none => s.newNotice (noticeOf body) matched

/-- The engine's action on a message, by its type (R132). -/
def actOn (msg : FeedMessage) (s : State) : State :=
  match msg.type.toNat with
  | 1 => s.nameSet msg.matched msg.body
  | 2 => s.alertBegin msg.matched msg.body
  | 3 => s.alertEnd msg.body
  | 4 => s.noticeMessage msg.matched msg.body
  | 5 => s.keepalive msg.body
  | _ => s

/-- The engine empties the ready slot (R132). -/
def emptyReady (s : State) : State := { s with receiver := { s.receiver with ready := none } }

/-- HELD entries whose remaining life has reached 0 (R140). -/
def lifeOver (s : State) : List StoreId := (List.finRange 16).filter fun j => s.lifeOf j == some 0

/-- The releases that are due while RUNNING, those of a 1 s tick already taken (R140, log 10). -/
def settleLives (s : State) : State :=
  if s.control.part = .running then s.lifeOver.foldl (fun s j => s.releaseNotice j) s else s

/-- What is due of a tick already taken, on the table that a message of this type acts on: expiries before an
ALERT_BEGIN or ALERT_END (R105), releases before a NOTICE (R140). -/
def settleFor (type : Byte) (s : State) : State :=
  match type.toNat with
  | 2 | 3 => s.settleHolds
  | 4 => s.settleLives
  | _ => s

/-- The message in the ready slot is acted on and the slot emptied, or nothing when there is none or none may start
(R132); an expiry or a release that is due comes first (R105, R140). -/
def messageStep (stopped : State → Bool) (s : State) : State :=
  match s.receiver.ready with
  | none => s
  | some msg => s.startAfter (.settleFor msg.type) (unlessStopped stopped fun s => (s.actOn msg).emptyReady)

end State

/-- FEED_CHARACTER (R122): a character taken from the sampler while the receiver is active. -/
def execFeedCharacter (data : Byte) (parity mark stop : Bool) (env : Env) (s : State) : Outcome :=
  .next (withBus env
    (fun s =>
      if s.receiver.active then
        if !stop || parityWrong s.general.parity data mark parity then s.badCharacter else s.goodCharacter data mark
      else s) s)

/-- FEED_LOST (R129, R130): the silence counter has reached its limit while the feed is LIVE and the part RUNNING. -/
def execFeedLost (env : Env) (s : State) : Outcome :=
  .next (withBus env State.settleLoss s)

/-- FEED_MESSAGE_ACTION (R132). -/
def execFeedMessageAction (env : Env) (s : State) : Outcome := .next (withBus env (State.messageStep State.noStop) s)

/-- NOTICE_LIFE_EXPIRED (R140): every HELD entry whose life is 0 is released, while RUNNING (log 10). -/
def execNoticeLifeExpired (s : State) : Outcome := .next s.settleLives

end Sys2Proof.Machine
end

