-- ==== Sys2Proof/Machine/Slots.lean ====
section
/-! DEFINITION. Stream output units and the slot decision: slots, underruns, repetitions, fetches and fetch faults
(R16 to R23, R70 to R85, R113, R114, R150). Commands SLOT_OPEN, SLOT_DECISION, FETCH_END, STREAM_OFF and BIT_TIME. -/

namespace Sys2Proof.Machine

/-! ## One unit -/

namespace StreamUnit

/-- The shifter holds no cell of which bits are still to be sent (R18). -/
def shifterReady (u : StreamUnit) : Bool :=
  match u.shifter with
  | none => true
  | some sh => decide (Config.cellBits ≤ sh.sent)

/-- Load a cell into the shifter, with the clock source and divisor in force (R18, R23). -/
def load (c : AirCell) (u : StreamUnit) : StreamUnit :=
  { u with shifter := some { cell := c, sent := 0, source := u.config.source, divisor := u.divisor, stale := false } }

/-- A slot is counted by the cell count and by the ALERT interval counter (R18, R113). -/
def countSlot (u : StreamUnit) : StreamUnit :=
  { u with cellCount := u.cellCount + 1, interval := satAdd u.interval 1 Config.maxInterval }

/-- One more bit of the cell has been taken (R17). -/
def shiftBit (u : StreamUnit) : StreamUnit :=
  match u.shifter with
  | none => u
  | some sh => if sh.sent < Config.cellBits then { u with shifter := some { sh with sent := sh.sent + 1 } } else u

/-- The unit has no cell left to send: OFF, SBOUT at 1 (R23). DESIGN CHOICE (log 43, unsafe): the bit-clock phase
becomes 0; no rule says what it is while the stream is OFF. -/
def turnOff (u : StreamUnit) : StreamUnit := { u with output := .off, shifter := none, phase := 0 }

end StreamUnit

namespace State

/-! ## Slot openings -/

/-- A slot may open on the stream: LIVE, RUNNING or HELD, and the shifter needs a cell (R18). -/
def slotMayOpen (s : State) (n : StreamId) : Bool :=
  decide ((s.unit n).output = .live) && s.control.part.onAir && (s.unit n).shifterReady

/-- What a slot opening on stream n does to a lane: a lane of the stream may be selected from now on (R37), and while
RUNNING its countdown falls by 1, saturating at -65 535 (R70). -/
def slotPassed (running : Bool) (n : StreamId) (l : Lane) : Lane :=
  if l.stream = n then
    { l with countdown := if running then max (-65535) (l.countdown - 1) else l.countdown, fresh := false }
  else l

/-- A slot opening on stream n reaches every lane of the stream (R37, R70). -/
def offerSlot (n : StreamId) (s : State) : State :=
  let passed := slotPassed (decide (s.control.part = .running)) n
  { s with sched := { s.sched with lanes := s.sched.lanes.map fun l => l.map passed } }

/-- The slot and address of an item's shadow entry, FFH and 0 where there is none. -/
def itemPlace (s : State) (src : Source) : Byte × Word :=
  match src with
  | .notice _ => (0xFF, 0)
  | .item e =>
    match s.shadowAt e with
    | none => (0xFF, 0)
    | some sh => (sh.slot, sh.address)

/-- Where the failed or late start of lane i on stream n is reported from (R158). -/
def fetchPlace (s : State) (n : StreamId) (i : LaneId) : FaultWhere :=
  match s.lane i with
  | none => { nowhere with stream := some n }
  | some l =>
    { stream := some n, slot := (s.itemPlace l.source).1, lane := BitVec.ofNat 8 i.val,
      address := (s.itemPlace l.source).2 }

/-- Where an UNDERRUN is reported from: the start whose fetch is in progress, if any (R158). -/
def underrunPlace (s : State) (n : StreamId) : FaultWhere :=
  match (s.unit n).fetch with
  | none => { nowhere with stream := some n }
  | some f => s.fetchPlace n f.lane

/-- Load the shifter at a slot opening: the buffered cell, with the next decision asked for, or an underrun FILL
(R18, R20). -/
def loadSlot (n : StreamId) (s : State) : State :=
  match (s.unit n).buffer with
  | .full c => s.setUnit n { (s.unit n).load c with buffer := .forming, asked := true }
  | .forming | .empty => (s.setUnit n ((s.unit n).load (s.fillCell n))).cause .underrun (s.underrunPlace n)

/-- A slot opens (R18, R20, R37, R70). -/
def openSlot (n : StreamId) (s : State) : State :=
  let s1 := s.loadSlot n
  (s1.setUnit n (s1.unit n).countSlot).offerSlot n

/-! ## ALERT, CLOCK and staged parts -/

/-- An ALERT is owed (R114). -/
def alertOwed (s : State) (n : StreamId) : Bool :=
  decide (0 < (s.unit n).burst)
    || (decide (0 < s.level n) && decide ((s.unit n).config.interval ≤ (s.unit n).interval))

/-- Form an ALERT cell: the burst counter falls, the interval counter becomes 0 (R114). -/
def formAlert (n : StreamId) (s : State) : State :=
  s.setUnit n { s.unit n with buffer := .full (s.alertCell n), burst := (s.unit n).burst - 1, interval := 0 }

/-- A CLOCK is owed (R150). -/
def clockOwedOn (s : State) (n : StreamId) : Bool :=
  s.clock.origin.isSome && (s.unit n).lastMinute != some s.minute

/-- Form a CLOCK cell: its minute becomes the last CLOCK minute (R10). -/
def formClock (n : StreamId) (s : State) : State :=
  s.setUnit n { s.unit n with buffer := .full (s.clockCell n), lastMinute := some s.minute }

/-- Form a FILL cell. -/
def formFill (n : StreamId) (s : State) : State := s.bufferCell n (s.fillCell n)

/-- A part of the repetition of stream n has been formed: one part less to form; after the last one the lane leaves
its repetition (R80). -/
def partFormed (n : StreamId) (s : State) : State :=
  match s.airingLane n with
  | none => s
  | some i =>
    match s.lane i with
    | none => s
    | some l =>
      match l.repetition with
      | .idle | .fetching => s
      | .parts left =>
        if left ≤ 1 then s.endRepetition i else s.setLane i (some { l with repetition := .parts (left - 1) })

/-- Form the next staged part (R19, R80). -/
def formStaged (n : StreamId) (s : State) : State :=
  match (s.unit n).staging with
  | [] => s
  | p :: ps =>
    (s.setUnit n { s.unit n with
      buffer := .full (s.formCell n p.kind p.part p.payload), staging := ps }).partFormed n

/-! ## Selection -/

/-- A stream is quiet (R74). -/
def quiet (s : State) (n : StreamId) : Bool :=
  decide ((s.unit n).config.quietThreshold ≠ 0) && decide ((s.unit n).config.quietThreshold ≤ s.level n)

/-- A not-before time lets the source air now (R73). -/
def timeOpen (s : State) (notBefore : Word) : Bool :=
  notBefore == 0 || (s.clock.origin.isSome && decide (notBefore.toNat ≤ s.clock.time.toNat))

/-- The not-before time of a source; a feed notice has none (R73). -/
def notBeforeOf (s : State) : Source → Word
  | .notice _ => 0
  | .item e =>
    match s.shadowAt e with
    | none => 0
    | some sh => sh.notBefore

/-- A lane of the stream is eligible at a decision (R73). -/
def eligible (s : State) (n : StreamId) (l : Lane) : Bool :=
  l.stream == n && decide (l.countdown ≤ 0) && l.closing.isNone && l.repetition == .idle
    && decide (s.control.part = .running) && s.timeOpen (s.notBeforeOf l.source) && !(l.cls == 3 && s.quiet n)

/-- The rank of a source among lanes of equal class and countdown: items before notices, then by item slot or store
entry (R75). -/
def sourceRank (s : State) : Source → Nat
  | .item e =>
    match s.shadowAt e with
    | none => 0
    | some sh => sh.slot.toNat
  | .notice j => 256 + j.val

/-- Lane a is chosen before lane b (R75). -/
def chosenBefore (s : State) (a b : Lane) : Bool :=
  decide (a.cls < b.cls) || (a.cls == b.cls &&
    (decide (a.countdown < b.countdown) || (a.countdown == b.countdown &&
      decide (s.sourceRank a.source < s.sourceRank b.source))))

/-- The lane chosen among lanes given in ascending order (R75). -/
def bestLane (s : State) : List LaneId → Option (LaneId × Lane)
  | [] => none
  | i :: is =>
    match s.lane i, bestLane s is with
    | none, r => r
    | some l, none => some (i, l)
    | some l, some (j, k) => if s.chosenBefore k l then some (j, k) else some (i, l)

/-- A decision may select the lane: it is eligible (R73), and a slot of its stream has opened since its creation (R37).
DEDUCED (log 41, unsafe) for the lane of a feed notice, to which R37 is applied as to an item's. -/
def selectable (s : State) (n : StreamId) (l : Lane) : Bool := s.eligible n l && !l.fresh

/-- The lane selected at a decision for a stream (R37, R75). -/
def selectLane (s : State) (n : StreamId) : Option (LaneId × Lane) := s.bestLane (s.lanesWhere (s.selectable n))

/-! ## Starts -/

/-- Add to an item's slip total (R76, R83). -/
def addSlip (src : Source) (s : State) : State :=
  match src with
  | .notice _ => s
  | .item e =>
    match s.shadowAt e with
    | none => s
    | some sh => s.setShadow e (some { sh with slipTotal := satAdd sh.slipTotal 1 Config.countLimit })

/-- The slip total of a lane's item, 0 for a notice (R76). -/
def slipsOf (s : State) : Source → Nat
  | .notice _ => 0
  | .item e =>
    match s.shadowAt e with
    | none => 0
    | some sh => sh.slipTotal

/-- A selection acts on the lane (R76): the countdown takes P more, a sum below 0 becomes 0 with a slip. -/
def selected (i : LaneId) (l : Lane) (s : State) : State :=
  let k := l.countdown + (l.period : Int)
  let s1 := s.setLane i (some { l with countdown := max k 0, repetition := .fetching })
  if k < 0 then s1.addSlip l.source else s1

/-- One repetition more of a lane and of its item (R78). -/
def countStart (i : LaneId) (l : Lane) (s : State) : State :=
  let s1 := s.setLane i (some { l with air := satAdd l.air 1 Config.countLimit })
  match l.source with
  | .notice _ => s1
  | .item e =>
    match s.shadowAt e with
    | none => s1
    | some sh => s1.setShadow e (some { sh with
        airTotal := satAdd sh.airTotal 1 Config.countLimit, lastAired := s.stationTime })

/-- The repeat limit of a source; 0 for no limit (R82). -/
def limitOf (s : State) : Source → Nat
  | .notice _ => 0
  | .item e =>
    match s.shadowAt e with
    | none => 0
    | some sh => sh.limit

/-- The repeat limit is tested (R82): a lane that has reached it closes with COUNT_DONE. -/
def testLimit (i : LaneId) (s : State) : State :=
  match s.lane i with
  | none => s
  | some l =>
    if s.limitOf l.source ≠ 0 ∧ l.air = s.limitOf l.source then
      s.setLane i (some { l with closing := some (l.closing.getD .countDone) })
    else s

/-- Where a text condition of a start is reported from (R158). -/
def textPlace (s : State) (n : StreamId) (i : LaneId) (src : Source) : FaultWhere :=
  match src with
  | .notice j =>
    { stream := some n, slot := BitVec.ofNat 8 j.val, lane := BitVec.ofNat 8 (i.val + 0x80), address := 0 }
  | .item e =>
    match s.shadowAt e with
    | none => { nowhere with stream := some n, lane := BitVec.ofNat 8 i.val }
    | some sh =>
      { stream := some n, slot := sh.slot, lane := BitVec.ofNat 8 i.val,
        address := if sh.feedName then 0 else sh.address }

/-- The fetch of a stream is over. -/
def endFetch (n : StreamId) (s : State) : State := s.setUnit n { s.unit n with fetch := none }

/-- The m parts are staged, part 0 formed at once (R19, R78); with m = 1 the lane leaves its repetition (R80).
Every content has a part (R1, R34); the first arm is not reached. -/
def stage (n : StreamId) (i : LaneId) (parts : List StagedPart) (s : State) : State :=
  match parts with
  | [] => ((s.endFetch n).formFill n).endRepetition i
  | p :: ps =>
    let s1 := s.setUnit n { s.unit n with
      buffer := .full (s.formCell n p.kind p.part p.payload), staging := ps, fetch := none }
    match s1.lane i with
    | none => s1
    | some l => if ps.isEmpty then s1.endRepetition i else s1.setLane i (some { l with repetition := .parts ps.length })

/-- A start whose content is in hand is completed (R78): TEXT_TRUNC is reported before TEXT_SUBST (R14). -/
def completeStart (n : StreamId) (i : LaneId) (c : Content) (s : State) : State :=
  match s.lane i with
  | none => s
  | some l =>
    let s1 := (s.countStart i l).testLimit i
    let place := s.textPlace n i l.source
    ((s1.causeIf c.truncated .textTrunc place).causeIf c.substituted .textSubst place).stage n i c.parts

/-! ## Fetch faults -/

/-- Set an item's slip total back (R84). -/
def restoreSlips (src : Source) (slips : Nat) (s : State) : State :=
  match src with
  | .notice _ => s
  | .item e =>
    match s.shadowAt e with
    | none => s
    | some sh => s.setShadow e (some { sh with slipTotal := slips })

/-- A lane's countdown, air count and slip total return to the values kept at the selection (R84). -/
def restoreLane (f : Fetch) (s : State) : State :=
  match s.lane f.lane with
  | none => s
  | some l =>
    (s.setLane f.lane (some { l with countdown := f.countdown, air := f.air })).restoreSlips l.source f.slips

/-- The slip counted for a skipped repetition (R83). -/
def slipLane (i : LaneId) (s : State) : State :=
  match s.lane i with
  | none => s
  | some l => s.addSlip l.source

/-- A fetch has failed with a condition: precise when the condition halts (R84), skipped otherwise (R83, R85); a FILL
takes the slot, and the lane leaves its repetition. -/
def fetchFault (c : Condition) (n : StreamId) (f : Fetch) (s : State) : State :=
  let s1 := s.cause c (s.fetchPlace n f.lane)
  let s2 := if s.halts c then s1.restoreLane f else s1.slipLane f.lane
  ((s2.endFetch n).formFill n).endRepetition f.lane

/-! ## Starting a repetition -/

/-- What a selection keeps until the content is staged (R76). -/
def fetchOf (s : State) (i : LaneId) (l : Lane) : Fetch :=
  { lane := i, countdown := l.countdown, air := l.air, slips := s.slipsOf l.source }

/-- The payload range of an item is contained for its desk (R52, R56). -/
def rangeContained (s : State) (sh : Shadow) : Bool :=
  (containingWindow s.port.windows sh.desk sh.address.toNat (sh.address.toNat + sh.length - 1)).isSome

/-- Start a repetition of the selected lane (R76, R77): content in hand is staged, a fetched item's range is tested
and its fetch begins, or fails at once. -/
def startLane (n : StreamId) (i : LaneId) (l : Lane) (s : State) : State :=
  let s1 := s.selected i l
  match l.source with
  | .notice j =>
    match s.notice j with
    | .held x => s1.completeStart n i (feedNoticeContent s.corrections x)
    | .free | .releasing => (s1.formFill n).endRepetition i
  | .item e =>
    match s.shadowAt e with
    | none => (s1.formFill n).endRepetition i
    | some sh =>
      if sh.feedName then s1.completeStart n i (nameContent s.corrections (s.feedName n).codes.toList false)
      else if s.rangeContained sh then s1.setUnit n { s1.unit n with fetch := some (s.fetchOf i l) }
      else s1.fetchFault .fetchWindow n (s.fetchOf i l)

/-- Cases 4 and 5 of a decision while RUNNING (R71). -/
def startOrFill (n : StreamId) (s : State) : State :=
  match s.selectLane n with
  | some (i, l) => s.startLane n i l
  | none => s.formFill n

/-- The decision has been taken. -/
def clearAsked (n : StreamId) (s : State) : State := s.setUnit n { s.unit n with asked := false }

/-- A slot decision: R71 while RUNNING, R72 while HELD. -/
def decideSlot (n : StreamId) (s : State) : State :=
  let s := s.clearAsked n
  let draining := !(s.unit n).staging.isEmpty
  if s.control.part = .running then
    if s.alertOwed n then s.formAlert n
    else if draining then s.formStaged n
    else if s.clockOwedOn n then s.formClock n
    else s.startOrFill n
  else if draining then
    if s.alertOwed n then s.formAlert n else s.formStaged n
  else s.formFill n

/-- A decision is waiting: LIVE, asked for, RUNNING or HELD (R18, R71, R72). -/
def decisionWaits (s : State) (n : StreamId) : Bool :=
  decide ((s.unit n).output = .live) && s.control.part.onAir && (s.unit n).asked

/-! ## The end of a fetch -/

/-- The item that a lane airs. -/
def itemOf (s : State) (i : LaneId) : Option Shadow :=
  match s.lane i with
  | none => none
  | some l =>
    match l.source with
    | .item e => s.shadowAt e
    | .notice _ => none

/-- The fetch of stream n ends (R77, R78, R83 to R85). A fetch is an item's; the first arm is not reached. -/
def finishFetch (n : StreamId) (f : Fetch) (s : State) : State :=
  match s.itemOf f.lane with
  | none => (s.endFetch n).formFill n
  | some sh =>
    match s.readPayload sh.address (fetchLength sh.kind sh.length) with
    | (none, s) => s.fetchFault .fetchBus n f
    | (some bs, s) => s.completeStart n f.lane (itemContent s.corrections sh.kind sh.length bs)

/-! ## Off -/

/-- The stream goes OFF once its shifter's cell is sent: after STOP, or where a reset has left the unit OFF (R23). That a
LIVE unit with no cell in its shifter at STOP goes OFF without one is log 44. -/
def goesOff (s : State) (n : StreamId) : Bool :=
  (s.unit n).shifterReady && (decide (s.control.part = .stopping) || decide ((s.unit n).output = .off))

end State

/-- SLOT_OPEN (R18). -/
def execSlotOpen (n : StreamId) (s : State) : Outcome :=
  .next (if s.slotMayOpen n then s.openSlot n else s)

/-- SLOT_DECISION (R71, R72). -/
def execSlotDecision (n : StreamId) (env : Env) (s : State) : Outcome :=
  .next (withBus env (fun s => if s.decisionWaits n then s.decideSlot n else s) s)

/-- FETCH_END (R78, R83). -/
def execFetchEnd (n : StreamId) (env : Env) (s : State) : Outcome :=
  .next (withBus env
    (fun s =>
      match (s.unit n).fetch with
      | none => s
      | some f => if s.control.part.onAir then s.finishFetch n f else s) s)

/-- STREAM_OFF (R23). -/
def execStreamOff (n : StreamId) (s : State) : Outcome :=
  .next (if s.goesOff n then s.setUnit n (s.unit n).turnOff else s)

/-- BIT_TIME (R17, R23). -/
def execBitTime (n : StreamId) (s : State) : Outcome :=
  .next (s.setUnit n (s.unit n).shiftBit)

end Sys2Proof.Machine
end

