-- ==== Sys2Proof/Machine/Windows.lean ====
section
/-! DEFINITION. The window-check record (R57 to R59). Command WINDOW_CHECK_POLL. -/

namespace Sys2Proof.Machine

/-- The answer of a window check: result flags byte and window index byte (R58, R187). -/
def checkAnswer (ws : Vector Window 8) (desk : BitVec 4) (a size : Nat) : Byte × Byte :=
  if size = 0 then (0x04, 0xFF)
  else if wrapsTop a size then (0x02, 0xFF)
  else
    match containingWindow ws desk a (a + size - 1) with
    | some w => (0x01, BitVec.ofNat 8 w.val)
    | none => (0x00, 0xFF)

namespace State

/-- The window-check poll of this tick is over (R57). -/
def clearWindowDue (s : State) : State := { s with time := { s.time with windowDue := false } }

/-- Take a request number as answered (R58). -/
def setCheckTaken (b : Byte) (s : State) : State := { s with port := { s.port with checkTaken := b } }

/-- Answer a window-check record as read (R58, R59): results, then the taken number, then the last-taken number. -/
def answerCheck (bs : List Byte) (s : State) : State :=
  let a := checkAnswer s.port.windows ((byteAt bs 2).setWidth 4) (le32At bs 8).toNat (le32At bs 12).toNat
  match s.writeAll [(Config.offWindowCheck + 3, [a.1, a.2]), (Config.offWindowCheck + 1, [byteAt bs 0])] with
  | (true, s) => s.setCheckTaken (byteAt bs 0)
  | (false, s) => s

/-- What the poll does with the record as read: answer it when its request number is new (R57). -/
def checkRecord (bs : List Byte) (s : State) : State :=
  if byteAt bs 0 = s.port.checkTaken then s else s.answerCheck bs

/-- The poll (R57): read the record, and answer it unless STOP came with the read (R59). -/
def windowPoll (stopped : State → Bool) (s : State) : State :=
  match s.clearWindowDue.readArea Config.offWindowCheck 16 with
  | (none, s) => s
  | (some bs, s) => s.unlessStopped stopped (checkRecord bs)

/-- The window-check poll of the last tick, or nothing when none is due or none may start (R57). -/
def windowStep (stopped : State → Bool) (s : State) : State :=
  if s.mayStart && s.time.windowDue then s.windowPoll stopped else s

end State

/-- WINDOW_CHECK_POLL (R57). -/
def execWindowCheckPoll (env : Env) (s : State) : Outcome := .next (withBus env (State.windowStep State.noStop) s)

end Sys2Proof.Machine
end

