-- ==== Sys2Proof/Machine/Control.lean ====
section
/-! DEFINITION. The control unit: registers, part states, START, RELOAD, STOP, the resets, the entry to HELD and the
stream status records (R153, R159, R163, R166 to R176, R179, R180). -/

namespace Sys2Proof.Machine

namespace State

/-! ## Commands -/

/-- A refused command sets the command-refused flag and does nothing else (R169). -/
def refuse (s : State) : State := { s with control := { s.control with refused := true } }

/-- An accepted command clears the command-refused flag (R168). -/
def accept (s : State) : State := { s with control := { s.control with refused := false } }

/-- The part state changes. -/
def setPart (p : PartState) (s : State) : State := { s with control := { s.control with part := p } }

/-- Clear what the last tick left to be polled (log 8). -/
def clearPolls (s : State) : State :=
  { s with time := { s.time with annDue := false, clockDue := false, windowDue := false, statusDue := false } }

/-! ## Stream status records -/

/-- Bytes 2 to 9 of a status record: the CURRENT announcement (R189). -/
def statusAnnouncement (s : State) (n : StreamId) : List Byte :=
  match (s.positions n).current with
  | none => List.replicate 8 0
  | some p =>
    match s.announcement p.entry with
    | none => List.replicate 8 0
    | some a =>
      [originCode (some a.origin), a.number] ++ le32 a.beginTime ++ le16 (BitVec.ofNat 16 a.duration)

/-- Byte 0 of a status record (R189). -/
def statusFlags (s : State) (n : StreamId) : Byte :=
  BitVec.ofNat 8 ((if (s.unit n).output = .live then 1 else 0) + 16 * (s.feedName n).state.code)

/-- Bytes 24 to 31 of a status record: the settings (R189). -/
def statusSettings (c : StreamConfig) : List Byte :=
  [BitVec.ofNat 8 ((if c.enabled then 1 else 0) + (if c.source = .intern then 2 else 0)), c.variant.setWidth 8,
    c.region, BitVec.ofNat 8 (c.switchThreshold + 16 * c.quietThreshold),
    BitVec.ofNat 8 (c.feedCeiling + 16 * c.burst), BitVec.ofNat 8 c.interval] ++ le16 (BitVec.ofNat 16 c.rate)

/-- How many lanes the stream holds, closing lanes included (R189). -/
def laneCount (s : State) (n : StreamId) : Nat := (s.lanesWhere fun l => l.stream == n).length

/-- Bytes 0 to 10 of an enabled stream's status record (R189). -/
def statusHead (s : State) (n : StreamId) : List Byte :=
  [s.statusFlags n, BitVec.ofNat 8 (s.level n)] ++ s.statusAnnouncement n ++ [BitVec.ofNat 8 (s.laneCount n)]

/-- A stream status record (R180, R189). -/
def statusBytes (s : State) (n : StreamId) : List Byte :=
  (if s.enabled n then s.statusHead n else List.replicate 11 0)
    ++ [BitVec.ofNat 8 (s.unit n).config.ceiling]
    ++ le32 (BitVec.ofNat 32 (if s.enabled n then s.committed n else 0))
    ++ le32 (BitVec.ofNat 32 (s.ceiling n))
    ++ le32 (s.unit n).cellCount
    ++ statusSettings (s.unit n).config

/-- The four writes of the status records (R180, R184). -/
def statusWrites (s : State) : List (Nat × List Byte) :=
  (List.finRange 4).map fun n => (Config.offStatus + 32 * n.val, s.statusBytes n)

/-- Write the four status records, the rest not when one meets BERR (R180); whether all ended well. -/
def writeStatus (s : State) : Bool × State := s.writeAll s.statusWrites

/-- The status write of this tick is over (log 8). -/
def clearStatusDue (s : State) : State := { s with time := { s.time with statusDue := false } }

/-! ## START -/

/-- The header as START reads it, in the order of R170. -/
structure Header where
  general : List Byte
  streams : List Byte
  windows : List Byte
  corrections : List Byte
  readPosition : List Byte
  clockSet : List Byte
  windowCheck : List Byte
  requests : List Byte
  deriving DecidableEq, Repr

/-- START's read bursts (R170, log 7). -/
def headerReads : List (Nat × Nat) :=
  [(Config.offGeneral, 18), (Config.offStreams, 64), (Config.offWindows, 96), (Config.offCorrections, 16),
    (Config.offReadPosition, 2), (Config.offClockSet, 16), (Config.offWindowCheck, 16), (Config.offRequests, 128)]

/-- The header from the bursts read. -/
def headerOf (bss : List (List Byte)) : Header :=
  { general := bss.getD 0 [], streams := bss.getD 1 [], windows := bss.getD 2 [], corrections := bss.getD 3 [],
    readPosition := bss.getD 4 [], clockSet := bss.getD 5 [], windowCheck := bss.getD 6 [],
    requests := bss.getD 7 [] }

/-- The stream configurations of a header. -/
def headerStreams (h : Header) : Vector StreamConfig 4 := Vector.ofFn fun n => streamConfigAt h.streams n

/-- The feed rate fails START (R121, R170). -/
def feedRateBad (g : GeneralConfig) : Bool :=
  g.feedRate != 0 && (decide (g.feedRate < 1200) || decide (38400 < g.feedRate) || feedErrorAbove3 g.fclk g.feedRate)

/-- START's checks, in order (R170). -/
def configErrorOf (h : Header) : ConfigError :=
  let g := generalOf h.general
  let ss := headerStreams h
  if byteAt h.general 0 ≠ 1 then .badFormat
  else if g.fclk < 1000 ∨ 50000 < g.fclk then .badClock
  else if !(ss.any fun c => c.enabled) then .noStream
  else if ss.any fun c => c.enabled && (decide (c.rate < 300) || decide (4800 < c.rate)) then .streamRate
  else if feedRateBad g then .feedRate
  else .none

/-- The last-taken numbers are set from the header and the answers owed are cleared (R57, R106, R146). -/
def takeNumbers (h : Header) (s : State) : State :=
  { s with
    ann := { s.ann with
      taken := Vector.ofFn fun r : RequestId => byteAt h.requests (16 * r.val + 1)
      owed := .replicate 8 none }
    clock := { s.clock with taken := byteAt h.clockSet 1, owed := none }
    port := { s.port with checkTaken := byteAt h.windowCheck 1 } }

/-- The feed receiver's reset values (R123), its input line apart. -/
def resetReceiver (s : State) : State := { s with receiver := Receiver.reset }

/-- START completes: the part state, the config error, and interrupt pending (R172, R173, R179). -/
def completeStartCommand (p : PartState) (e : ConfigError) (s : State) : State :=
  { s with control := { s.control with part := p, configError := e, interrupt := true } }

/-- What a failed START leaves cleared (R173, log 30). -/
def clearLoaded (s : State) : State :=
  { s with
    port := { s.port with windows := .replicate 8 Window.reset }
    corrections := .replicate 8 Correction.reset
    conds := { s.conds with haltMask := 0 }
    control := { s.control with notifyMask := 0 } }

/-- A failed START (R173). -/
def failStart (e : ConfigError) (s : State) : State := s.clearLoaded.resetReceiver.completeStartCommand .stopped e

/-- Step 1 of R172: the write position takes the read position as read. -/
def takeReadPosition (h : Header) (s : State) : State :=
  { s with writePosition := (le16At h.readPosition 0).setWidth 9 }

/-- Step 2 of R172: tables emptied, names and feed state at their start values, the sweep at slot 0, the values of the
header in force. -/
def emptyTables (h : Header) (s : State) : State :=
  { s with
    sched := Scheduler.reset
    ann := { s.ann with table := .replicate 16 none, streams := .replicate 4 AnnStream.reset }
    engine := Engine.reset
    receiver := Receiver.reset
    sweep := Sweep.reset
    port := { s.port with windows := windowsOf h.windows }
    corrections := correctionsOf h.corrections
    general := generalOf h.general
    conds := { s.conds with haltMask := haltMaskOf (le32At h.general Config.offHaltMask) }
    control := { s.control with notifyMask := notifyMaskOf (byteAt h.general Config.offNotifyMask) }
    clock := { s.clock with
      source := clockSourceOf (byteAt h.general 6), offset := clampOffset (byteAt h.general 17) } }

/-- The mask of streams that a header enables (R178). -/
def headerMask (h : Header) : Byte :=
  (List.finRange 4).foldl
    (fun m n => if (headerStreams h)[n].enabled then m ||| BitVec.ofNat 8 (2 ^ n.val) else m) (0 : Byte)

/-- The STARTED record (R178). -/
def startedEvent (h : Header) : LogEvent :=
  { kind := .started, stream := none, reason := 0, aux := headerMask h, subject := 0 }

/-- Unit n takes its configuration copy and its divisor, enabled or not (R171, R21), and an enabled one enters LIVE with
its first decision asked for (R16). A cell still being sent keeps its bit clock's phase (R23).
DESIGN CHOICE (log 43, unsafe): with no cell in the shifter the phase becomes 0, so the first rising edge of an INTERNAL
SBCLK, at which the first slot opens, comes Ds + 1 cycles of CLK after LIVE; R16 says the next rising edge alone. -/
def startUnit (n : StreamId) (fclk : Nat) (c : StreamConfig) (u : StreamUnit) : StreamUnit :=
  let u := { u with config := c, divisor := startDivisorOf n fclk c u.divisor }
  if c.enabled then
    { u with
      output := .live, buffer := .forming, asked := true, staging := [], fetch := none,
      phase := if u.shifterReady then 0 else u.phase }
  else u

/-- Step 5 of R172 on the streams. -/
def startUnits (h : Header) (s : State) : State :=
  { s with units := Vector.ofFn fun n => startUnit n (generalOf h.general).fclk (headerStreams h)[n] s.units[n] }

/-- Step 5 of R172 on the other blocks: the halt cause is cleared, the time base starts its counts, the receiver
becomes active when the feed is on. -/
def startBlocks (s : State) : State :=
  { s with
    conds := { s.conds with haltCause := none }
    time := TimeBase.reset
    receiver := { s.receiver with active := s.general.feedRate != 0 } }

/-- Steps 3 to 5 of R172. The status records of step 4 report the streams as step 5 will leave them (R180). -/
def finishStart (h : Header) (s : State) : State :=
  match s.append (startedEvent h) with
  | (false, s) => s.failStart .boardBus
  | (true, s) =>
    match s.writeAll (s.startUnits h).statusWrites with
    | (false, s) => s.failStart .boardBus
    | (true, s) => ((s.startUnits h).startBlocks).completeStartCommand .running .none

/-- Steps 1 and 2 of R172, then the rest. -/
def runStart (h : Header) (s : State) : State :=
  let s := s.takeReadPosition h
  match s.writeArea Config.offWritePosition (le16 (s.writePosition.setWidth 16)) with
  | (false, s) => s.failStart .boardBus
  | (true, s) => (s.emptyTables h).finishStart h

/-- START_COMPLETION: the header reads, the checks, and the completion (R170 to R173, log 15).
DESIGN CHOICE (log 36): the last-taken numbers are set once all header reads have ended well, so a BERR on any of them
leaves every one as it was, those whose record was read before it included. -/
def startCompletion (s : State) : State :=
  match s.readAll headerReads with
  | (none, s) => s.failStart .boardBus
  | (some bss, s) =>
    let h := headerOf bss
    let s := s.takeNumbers h
    if configErrorOf h = .none then s.runStart h else s.failStart (configErrorOf h)

/-! ## RELOAD -/

/-- RELOAD's read bursts (R174, log 7). -/
def reloadReads : List (Nat × Nat) :=
  [(Config.offWindows, 96), (Config.offCorrections, 16), (Config.offNotifyMask, 1), (Config.offHaltMask, 4)]

/-- A reload in progress, or none (R174). -/
def setReloading (b : Bool) (s : State) : State := { s with control := { s.control with reloading := b } }

/-- The four are replaced together (R174). -/
def replaceLoaded (bss : List (List Byte)) (s : State) : State :=
  { s with
    port := { s.port with windows := windowsOf (bss.getD 0 []) }
    corrections := correctionsOf (bss.getD 1 [])
    control := { s.control with notifyMask := notifyMaskOf (byteAt (bss.getD 2 []) 0) }
    conds := { s.conds with haltMask := haltMaskOf (le32At (bss.getD 3 []) 0) } }

/-- The reads of a reload and its replacement (R174). -/
def reloadReplace (s : State) : State :=
  match s.readAll reloadReads with
  | (none, s) => s.setReloading false
  | (some bss, s) => (s.replaceLoaded bss).setReloading false

/-! ## STOP -/

/-- A LIVE unit discards its staging buffer and cell buffer and abandons a fetch (R23); every unit's ALERT owing
counters become 0 (R118). -/
def stopUnit (u : StreamUnit) : StreamUnit :=
  { u with buffer := .empty, staging := [], fetch := none, asked := false, burst := 0, interval := 0 }

/-- The receiver becomes inactive and discards what it holds (R123); what the sampler and its prescaler hold while it is
inactive is log 26, and what the matched set holds log 21. -/
def stopReceiver (r : Receiver) : Receiver :=
  { r with
    active := false, state := .hunt, assembly := [], ready := none, feed := .silent, silence := 0,
    sampler := .waitHigh, prescale := 0 }

/-- Step 1 of STOP (R175). -/
def stopBlocks (s : State) : State :=
  { s with
    units := s.units.map stopUnit
    receiver := stopReceiver s.receiver
    sweep := { s.sweep with owed := 0 }
    ann := { s.ann with table := .replicate 16 none, streams := .replicate 4 AnnStream.reset }
    conds := { s.conds with haltPending := none }
    time := { s.time with secondDue := false } }

/-- Step 1 of STOP once no work is under way (R175, R118, R156, R174); `met` says that a transfer of work that completed
in this step met BERR after the acceptance. -/
def acceptStop (met : Bool) (s : State) : State :=
  let s1 := (s.accept.stopBlocks.clearPolls).setReloading false
  { s1 with control := { s1.control with stopFrom := s.control.part, part := .stopping, stopBerr := met } }

/-- A piece of work, by its kind; `stopped` says in which states STOP has been accepted. -/
def workStep (w : Work) (stopped : State → Bool) (s : State) : State :=
  match w with
  | .visit => s.visitStep
  | .announcements => s.announcementStep stopped
  | .clockSet => s.clockStep stopped
  | .windowCheck => s.windowStep stopped
  | .message => s.messageStep stopped

/-- A plan filled up with good ends, so that it tells of transfer k whether it has been made. -/
def fillPlan (k : Nat) (plan : List (Option Nat)) : List (Option Nat) :=
  plan ++ List.replicate (k + 1 - plan.length) none

/-- The work under way at the acceptance of STOP completes (R175 step 1: R31, R59, R110, R132, R147), and of a poll no
further request is taken (R118): whether a transfer after the acceptance met BERR, and the state. Work that could not
have started does nothing (log 3). The halt pending that a condition brings on the way is cleared with STOP (R156). -/
def completeWork (u : UnderWay) (s : State) : Bool × State :=
  let b := s.beginBus { u.env with berr := fillPlan u.made u.env.berr }
  let t := b.workStep u.work (b.pastTransfer u.made)
  (!b.endedWellFrom u.made t, t.endBus)

/-- STOP accepted, with or without work under way (R175). DESIGN CHOICE (log 45, unsafe): the work of which a part may
stand before STOP and a part after it is that of R175's list; every other command is taken whole. -/
def takeStop (underWay : Option UnderWay) (s : State) : State :=
  match underWay with
  | none => s.acceptStop false
  | some u => (s.completeWork u).2.acceptStop (s.completeWork u).1

/-- STOP refused (R169); the host's writes land all the same (log 3). -/
def refuseStop (underWay : Option UnderWay) (s : State) : State :=
  match underWay with
  | none => s.refuse
  | some u => withBus u.env refuse s

/-- An item's place in ascending slot order (R47). -/
def insertBySlot (x : ShadowId × Shadow) : List (ShadowId × Shadow) → List (ShadowId × Shadow)
  | [] => [x]
  | y :: ys => if x.2.slot.toNat ≤ y.2.slot.toNat then x :: y :: ys else y :: insertBySlot x ys

/-- The items held, in ascending slot order (R47). -/
def heldItems (s : State) : List (ShadowId × Shadow) :=
  ((List.finRange 64).filterMap fun e => (s.shadowAt e).map fun sh => (e, sh)).foldr insertBySlot []

/-- Step 3 of the teardown: each item is retired as STOPPED with its record, until a transfer meets BERR; how many
retirement writes were completed, and whether every transfer ended well (R47, R175, R191, log 24). -/
def retireAll : List (ShadowId × Shadow) → Nat → State → Bool × Nat × State
  | [], k, s => (true, k, s)
  | (_, sh) :: rest, k, s =>
    match s.writeAll (retireWrites sh .stopped) with
    | (false, s) => (false, k, s)
    | (true, s) =>
      match s.append (retiredEvent sh.slot sh.desk .stopped) with
      | (false, s) => (false, k + 1, s)
      | (true, s) => retireAll rest (k + 1) s

/-- Step 4 of the teardown, with the freeing of the shadow entries: every table of the scheduler and the store empty,
committed loads 0 (R90). -/
def emptyScheduler (s : State) : State :=
  { s with
    sched := Scheduler.reset
    engine := { s.engine with store := .replicate 16 .free } }

/-- The STOPPED record (R178, R191). -/
def stoppedEvent (s : State) (retired : Nat) : LogEvent :=
  { kind := .stopped, stream := none, reason := BitVec.ofNat 8 s.control.stopFrom.code,
    aux := BitVec.ofNat 8 (causeCode s.conds.haltCause), subject := BitVec.ofNat 16 retired }

/-- The writes of step 5 (R175): the STOPPED record, then the status records. -/
def stopWrites (retired : Nat) (s : State) : State :=
  match s.append (s.stoppedEvent retired) with
  | (false, s) => s
  | (true, s) => s.writeStatus.2

/-- Steps 3 to 5 of STOP; after a BERR in work that completed in step 1 their writes are not made (R175). -/
def teardown (s : State) : State :=
  let r := if s.control.stopBerr then (false, 0, s) else s.retireAll s.heldItems 0
  let s1 := r.2.2.emptyScheduler
  (if r.1 then s1.stopWrites r.2.1 else s1).setPart .stopped

/-- Every stream is OFF. -/
def allOff (s : State) : Bool := (List.finRange 4).all fun n => (s.unit n).output == .off

/-! ## Resets -/

/-- A unit's reset state; a partly sent cell stays in the shifter to be finished (R15, R23, log 20). -/
def resetUnit (u : StreamUnit) : StreamUnit :=
  match u.shifter with
  | none => StreamUnit.reset
  | some sh =>
    if sh.sent < Config.cellBits then
      { StreamUnit.reset with shifter := some { sh with stale := true }, phase := u.phase }
    else StreamUnit.reset

/-- Every block takes its reset state at once; board memory, the feed line and the queue are outside the part, and BASE
is the value given (R176). -/
def resetWith (base : Word) (s : State) : State :=
  { State.reset with
    control := { Control.reset with base := base }
    units := s.units.map resetUnit
    mem := s.mem, feedIn := s.feedIn, pending := s.pending }

/-! ## HELD -/

/-- The 16 bytes of the fault record (R188). -/
def faultBytes (c : Capture) : List Byte :=
  [BitVec.ofNat 8 c.cause.code, streamByte c.place.stream, c.place.slot, c.place.lane]
    ++ le32 c.place.address ++ le32 c.time ++ le32 c.cells

/-- The FAULT record's fields (R160). -/
def faultEvent (c : Capture) : LogEvent :=
  { kind := .fault, stream := c.place.stream, reason := BitVec.ofNat 8 c.cause.code, aux := c.place.lane,
    subject := if c.place.slot = 0xFF then 0xFFFF else c.place.slot.setWidth 16 }

/-- Step 1 of the entry to HELD (R159): HELD, the halt cause shown, the halt pending cleared; the polls not yet made are
passed over (log 8). -/
def becomeHeld (c : Capture) (s : State) : State :=
  let s1 := (s.setPart .held).clearPolls
  { s1 with conds := { s1.conds with haltCause := some c.cause, haltPending := none } }

/-- Steps 2 and 3 (R159): the fault record and the FAULT record, unless the cause is BOARD_BUS. -/
def recordFault (c : Capture) (s : State) : State :=
  if c.cause = .boardBus then s
  else (((s.writeArea Config.offFault (faultBytes c)).2).appendAt (faultEvent c) c.time c.cells).2

/-- The entry to HELD (R159). -/
def enterHeld (c : Capture) (s : State) : State := ((s.becomeHeld c).recordFault c).raiseInterrupt

end State

/-! ## The commands -/

/-- START (R169, R170). -/
def execStart (s : State) : Outcome :=
  .next (if s.control.part = .stopped then s.accept.setPart .starting else s.refuse)

/-- START_COMPLETION (R170 to R173). -/
def execStartCompletion (env : Env) (s : State) : Outcome :=
  .next (withBus env (fun s => if s.control.part = .starting then s.startCompletion else s) s)

/-- STOP (R169, R175), with the work under way at its acceptance, if any. -/
def execStop (s : State) (underWay : Option UnderWay := none) : Outcome :=
  .next (if s.control.part.onAir then s.takeStop underWay else s.refuseStop underWay)

/-- STOP_TEARDOWN (R175): once every stream is OFF. -/
def execStopTeardown (env : Env) (s : State) : Outcome :=
  .next (withBus env (fun s => if s.control.part = .stopping ∧ s.allOff then s.teardown else s) s)

/-- RESUME (R163, R169). -/
def execResume (s : State) : Outcome :=
  .next (if s.control.part = .held then
      { s.accept.setPart .running with conds := { s.conds with haltCause := none } }
    else s.refuse)

/-- RELOAD (R169, R174). -/
def execReload (s : State) : Outcome :=
  .next (if s.control.part = .running ∧ s.control.reloading = false then s.accept.setReloading true else s.refuse)

/-- RELOAD_REPLACE (R174): while a reload is in progress. -/
def execReloadReplace (env : Env) (s : State) : Outcome :=
  .next (withBus env (fun s => if s.control.reloading then s.reloadReplace else s) s)

/-- ACK (R169, R179). -/
def execAck (s : State) : Outcome :=
  .next { s.accept with control := { s.accept.control with interrupt := false } }

/-- RESET (R176): BASE stays. -/
def execReset (s : State) : Outcome := .next (s.resetWith s.control.base)

/-- A CMD write whose code no command has (R169). -/
def execCommandRefused (_value : Word) (s : State) : Outcome := .next s.refuse

/-- RST_N (R176): BASE becomes 0. -/
def execRstN (s : State) : Outcome := .next (s.resetWith 0)

/-- BASE_WRITE (R167). -/
def execBaseWrite (value : Word) (s : State) : Outcome :=
  .next (if s.control.part = .stopped then { s with control := { s.control with base := value } } else s)

/-- COND_WRITE (R153): each flag whose bit is written as 1 is cleared. -/
def execCondWrite (value : Word) (s : State) : Outcome :=
  .next { s with conds := { s.conds with flags := s.conds.flags &&& ~~~(value.setWidth 13) } }

/-- A write to IDENT, STAT or an unused offset (R166). -/
def execRegisterWriteIgnored (_offset : Byte) (_value : Word) (s : State) : Outcome := .next s

/-- ENTER_HELD (R156, R159): the halt pending takes effect; a reload in progress finishes first (R174). -/
def execEnterHeld (env : Env) (s : State) : Outcome :=
  .next (withBus env
    (fun s =>
      match s.conds.haltPending with
      | none => s
      | some c => if s.control.part = .running ∧ s.control.reloading = false then s.enterHeld c else s) s)

/-- STATUS_WRITE (R180): the write of the last tick while RUNNING, or nothing when none is due. -/
def execStatusWrite (env : Env) (s : State) : Outcome :=
  .next (withBus env
    (fun s => if s.control.part = .running ∧ s.time.statusDue then s.clearStatusDue.writeStatus.2 else s) s)

end Sys2Proof.Machine
end

