-- ==== Sys2Proof/Machine/TimeBase.lean ====
section
/-! DEFINITION. One cycle of CLK (R17, R21, R121, R122, R142), the register reads (R166, R167) and the output pins
(R15, R23, R112, R168). A cycle changes counters alone and puts the commands that fall due behind the queue (log 2). -/

namespace Sys2Proof.Machine

/-! ## The bit clock of an INTERNAL stream -/

namespace StreamUnit

/-- The divisor of the bit clock that the part drives now, none when it drives none: that of the cell being sent when
it began (R23), else the configuration's while LIVE (R17). -/
def generator (u : StreamUnit) : Option Nat :=
  match u.shifter with
  | none => if u.output = .live ∧ u.config.source = .intern then some u.divisor else none
  | some sh =>
    if sh.sent < Config.cellBits then (if sh.source = .intern then some sh.divisor else none)
    else if u.output = .live ∧ u.config.source = .intern then some u.divisor
    else none

/-- The cell being sent is left over from before a reset (R23). -/
def isStale (u : StreamUnit) : Bool :=
  match u.shifter with
  | none => false
  | some sh => sh.stale

/-- One bit is left to send of the cell in the shifter. -/
def lastBit (u : StreamUnit) : Bool :=
  match u.shifter with
  | none => false
  | some sh => sh.sent + 1 == Config.cellBits

/-- What follows the 96th bit of a cell at its edge: the next slot, or the end of the stream's sending; a cell left
over from before a reset leaves the next slot to the new configuration's next edge (R18, R23). -/
def afterCell (p : PartState) (n : StreamId) (u : StreamUnit) : List Instr :=
  if u.output = .live ∧ p.onAir = true then (if u.isStale then [] else [.slotOpen n])
  else [.streamOff n]

/-- What a rising edge of the stream's bit clock brings (R17, R18). -/
def edge (p : PartState) (n : StreamId) (u : StreamUnit) : List Instr :=
  if u.shifterReady then (if u.output = .live ∧ p.onAir = true then [.slotOpen n] else [])
  else .bitTime n :: (if u.lastBit then u.afterCell p n else [])

/-- A LIVE unit with nothing left to send, when the part is STOPPING: STREAM_OFF comes at the next cycle of CLK, without
an edge. R23 says when a cell in the shifter at STOP ends, and no rule says when a unit goes OFF that has none there,
before its first slot, or one whose 96 bits are sent. DESIGN CHOICE (log 44, unsafe): the next cycle, for an EXTERNAL
stream too. -/
def stops (p : PartState) (u : StreamUnit) : Bool :=
  decide (p = .stopping) && decide (u.output = .live) && u.shifterReady

/-- One cycle of CLK at a stream's unit: a rising edge every Ds + 1 cycles (R17). -/
def cycle (p : PartState) (n : StreamId) (u : StreamUnit) : List Instr × StreamUnit :=
  if u.stops p then ([.streamOff n], u)
  else
    match u.generator with
    | none => ([], u)
    | some d => if u.phase < d then ([], { u with phase := u.phase + 1 }) else (u.edge p n, { u with phase := 0 })

end StreamUnit

/-! ## The character sampler -/

/-- A character as sampled: data byte, parity bit, mark bit, stop bit (R120). -/
structure Sampled where
  data : Byte
  parity : Bool
  mark : Bool
  stop : Bool
  deriving DecidableEq, Repr

/-- Bits of a character after its start bit (R120). -/
def characterBits : Parity → Nat
  | .none => 10
  | .even | .odd => 11

/-- The character of a full run of bits, data bit 0 first; without parity the parity bit is not looked at (R120). -/
def sampledOf (p : Parity) (got : List Bool) : Sampled :=
  let bit := fun i => got.getD i false
  { data := (List.range 8).foldl (fun (v : Byte) i => if bit i then v ||| BitVec.ofNat 8 (2 ^ i) else v) 0
    parity := if p = .none then false else bit 8
    mark := bit (characterBits p - 2)
    stop := bit (characterBits p - 1) }

/-- One sample into the sampler: its next state, and the character it completes (R122). -/
def Sampler.take (p : Parity) (b : Bool) : Sampler → Sampler × Option Sampled
  | .waitHigh => (if b then .waitFall else .waitHigh, none)
  | .waitFall => (if b then .waitFall else .startBit 0, none)
  | .startBit k =>
    if k + 1 < 8 then (.startBit (k + 1), none)
    else (if b then .waitFall else .bits 0 [], none)
  | .bits k got =>
    if k + 1 < 16 then (.bits (k + 1) got, none)
    else if got.length + 1 < characterBits p then (.bits 0 (got ++ [b]), none)
    else (if b then .waitFall else .waitHigh, some (sampledOf p (got ++ [b])))

/-- The command of a sampled character. -/
def Sampled.command (c : Sampled) : Instr := .feedCharacter c.data c.parity c.mark c.stop Env.quiet

namespace State

/-! ## One cycle of CLK -/

/-- A 1 s tick and what may reach its end at it, directly behind it (R105, R129, R140, R142, log 2). -/
def secondCommands : List Instr := [.tick1s, .holdExpired Env.quiet, .noticeLifeExpired, .feedLost Env.quiet]

/-- The 100 ms tick that a cycle completes, and the 1 s tick that every tenth one is (R142). -/
def tickCommands (s : State) : List Instr :=
  if s.control.part.onAir = true ∧ s.general.fclk * 100 ≤ s.time.cycles + 1 then
    .tick100ms :: (if s.time.tenths = 9 then secondCommands else [])
  else []

/-- The cycle count of the time base (R142). -/
def countCycle (s : State) : State :=
  if s.control.part.onAir then
    { s with time := { s.time with
        cycles := if s.general.fclk * 100 ≤ s.time.cycles + 1 then 0 else s.time.cycles + 1 } }
  else s

/-- The commands that a cycle brings on the four streams (R17, R18). -/
def streamCommands (s : State) : List Instr :=
  (List.finRange 4).flatMap fun n => ((s.unit n).cycle s.control.part n).1

/-- The four bit clocks (R17). -/
def cycleUnits (s : State) : State :=
  { s with units := Vector.ofFn fun n => ((s.unit n).cycle s.control.part n).2 }

/-- A cycle takes a sample of FEED_IN: one every Df + 1 cycles while the receiver is active (R121, R122). -/
def samples (s : State) : Bool := s.receiver.active && decide (s.general.feedDivisor ≤ s.receiver.prescale)

/-- What the sampler makes of the next sample; past the end of the waveform given the line rests at 1 (log 26). -/
def nextSample (s : State) : Sampler × Option Sampled :=
  s.receiver.sampler.take s.general.parity (s.feedIn.headD true)

/-- The character that a cycle completes (R122). -/
def feedCommands (s : State) : List Instr :=
  if s.samples then (s.nextSample.2.map Sampled.command).toList else []

/-- The sampler's part of a cycle (R121, R122). -/
def cycleFeed (s : State) : State :=
  if s.samples then
    { s with
      feedIn := s.feedIn.tail
      receiver := { s.receiver with sampler := s.nextSample.1, prescale := 0 } }
  else if s.receiver.active then
    { s with receiver := { s.receiver with prescale := s.receiver.prescale + 1 } }
  else s

/-- The commands that a cycle brings, in the order ticks, streams 0 to 3, feed (log 2). -/
def cycleCommands (s : State) : List Instr := s.tickCommands ++ s.streamCommands ++ s.feedCommands

/-- Put commands behind those that wait. -/
def enqueue (cs : List Instr) (s : State) : State := { s with pending := s.pending ++ cs }

/-- One cycle of CLK (log 2). -/
def clkCycle (s : State) : State := s.countCycle.cycleUnits.cycleFeed.enqueue s.cycleCommands

/-! ## The register window -/

/-- STAT (R166). -/
def stat (s : State) : Word :=
  BitVec.ofNat 32 (s.control.part.code + (if s.control.interrupt then 16 else 0) + (if s.control.refused then 32 else 0)
    + 256 * s.control.configError.code + 65536 * causeCode s.conds.haltCause)

/-- A read of the register window: it changes nothing, so it is no command (R166, R167, log 34). -/
def readRegister (s : State) (offset : Byte) : Option Word :=
  match offset.toNat with
  | 0x00 => some Config.ident
  | 0x04 => some s.control.base
  | 0x08 => some 0
  | 0x0C => some s.stat
  | 0x10 => some (s.conds.flags.setWidth 32)
  | 0x14 => some 0
  | 0x18 => some 0
  | 0x1C => some 0
  | _ => none

/-! ## The output pins -/

/-- INT_N is high (R168). -/
def intN (s : State) : Bool := !s.control.interrupt

/-- ANSW of a stream is active (R112). -/
def answ (s : State) (n : StreamId) : Bool :=
  s.control.part.onAir && s.enabled n && decide ((s.unit n).config.switchThreshold ≠ 0)
    && decide ((s.unit n).config.switchThreshold ≤ s.level n)

/-- SBOUT of a stream, none where the manual states no level (R15, R17, R23, log 25). -/
def sbout (s : State) (n : StreamId) : Option Bool :=
  match (s.unit n).shifter with
  | none => if (s.unit n).output = .off then some true else none
  | some sh =>
    if sh.sent < Config.cellBits then some (sh.cell.bit sh.sent)
    else if (s.unit n).output = .off ∨ sh.stale = true then some true
    else none

/-- SBCLK of a stream as an output, none where it is an input or the manual states no level (R15, R22, log 25). -/
def sbclk (s : State) (n : StreamId) : Option Bool :=
  if (s.unit n).output = .off ∧ (s.unit n).config.source = .intern ∧ (s.unit n).shifterReady = true then some false
  else none

end State

end Sys2Proof.Machine
end

