-- ==== Sys2Proof/Machine/Dispatch.lean ====
section
/-! DEFINITION. One arm per command of spec/opcode_table.json, each one direct call of the command's meaning. -/

namespace Sys2Proof.Machine

/-- The effect of a command on everything but the queue. -/
def exec (i : Instr) (s : State) : Host.Outcome State Fault Refusal :=
  match i with
  | .start => Sys2Proof.Machine.execStart s
  | .startCompletion env => Sys2Proof.Machine.execStartCompletion env s
  | .stop underWay => Sys2Proof.Machine.execStop s underWay
  | .stopTeardown env => Sys2Proof.Machine.execStopTeardown env s
  | .resume => Sys2Proof.Machine.execResume s
  | .reload => Sys2Proof.Machine.execReload s
  | .reloadReplace env => Sys2Proof.Machine.execReloadReplace env s
  | .ack => Sys2Proof.Machine.execAck s
  | .reset => Sys2Proof.Machine.execReset s
  | .commandRefused value => Sys2Proof.Machine.execCommandRefused value s
  | .rstN => Sys2Proof.Machine.execRstN s
  | .baseWrite value => Sys2Proof.Machine.execBaseWrite value s
  | .condWrite value => Sys2Proof.Machine.execCondWrite value s
  | .registerWriteIgnored offset value => Sys2Proof.Machine.execRegisterWriteIgnored offset value s
  | .tick100ms => Sys2Proof.Machine.execTick100ms s
  | .tick1s => Sys2Proof.Machine.execTick1s s
  | .sweepVisit env => Sys2Proof.Machine.execSweepVisit env s
  | .announcementPoll env => Sys2Proof.Machine.execAnnouncementPoll env s
  | .holdExpired env => Sys2Proof.Machine.execHoldExpired env s
  | .clockSetPoll env => Sys2Proof.Machine.execClockSetPoll env s
  | .windowCheckPoll env => Sys2Proof.Machine.execWindowCheckPoll env s
  | .statusWrite env => Sys2Proof.Machine.execStatusWrite env s
  | .slotOpen stream => Sys2Proof.Machine.execSlotOpen stream s
  | .slotDecision stream env => Sys2Proof.Machine.execSlotDecision stream env s
  | .fetchEnd stream env => Sys2Proof.Machine.execFetchEnd stream env s
  | .streamOff stream => Sys2Proof.Machine.execStreamOff stream s
  | .feedCharacter data parity mark stop env => Sys2Proof.Machine.execFeedCharacter data parity mark stop env s
  | .feedLost env => Sys2Proof.Machine.execFeedLost env s
  | .feedMessageAction env => Sys2Proof.Machine.execFeedMessageAction env s
  | .noticeLifeExpired => Sys2Proof.Machine.execNoticeLifeExpired s
  | .enterHeld env => Sys2Proof.Machine.execEnterHeld env s
  | .bitTime stream => Sys2Proof.Machine.execBitTime stream s

end Sys2Proof.Machine
end

