-- ==== Sys2Proof/Safety.lean ====
section
/-! DEFINITION. The words that claims use: the state a command works on, the bytes of the exchange area, what a
command leaves alone in memory, the records it appends, and the invariants of memory, of the lane table and of the
announcement positions. -/

namespace Sys2Proof

/-- What the board does around a command; nothing for a command that does not use the bus. -/
def Instr.env : Instr → Env
  | .startCompletion env | .stopTeardown env | .reloadReplace env | .sweepVisit env | .announcementPoll env
  | .holdExpired env | .clockSetPoll env | .windowCheckPoll env | .statusWrite env | .slotDecision _ env
  | .fetchEnd _ env | .feedCharacter _ _ _ _ env | .feedLost env | .feedMessageAction env | .enterHeld env => env
  | .stop underWay => (underWay.map UnderWay.env).getD Env.quiet
  | .start | .resume | .reload | .ack | .reset | .commandRefused _ | .rstN | .baseWrite _ | .condWrite _
  | .registerWriteIgnored _ _ | .tick100ms | .tick1s | .slotOpen _ | .streamOff _ | .noticeLifeExpired
  | .bitTime _ => Env.quiet

/-- The command that does a piece of work when no STOP falls into it. -/
def Work.command (w : Work) (env : Env) : Instr :=
  match w with
  | .visit => .sweepVisit env
  | .announcements => .announcementPoll env
  | .clockSet => .clockSetPoll env
  | .windowCheck => .windowCheckPoll env
  | .message => .feedMessageAction env

/-- The command is one of the two resets (R176). -/
def Instr.isReset : Instr → Bool
  | .reset | .rstN => true
  | .start | .startCompletion _ | .stop _ | .stopTeardown _ | .resume | .reload | .reloadReplace _ | .ack
  | .commandRefused _ | .baseWrite _ | .condWrite _ | .registerWriteIgnored _ _ | .tick100ms | .tick1s
  | .sweepVisit _ | .announcementPoll _ | .holdExpired _ | .clockSetPoll _ | .windowCheckPoll _ | .statusWrite _
  | .slotOpen _ | .slotDecision _ _ | .fetchEnd _ _ | .streamOff _ | .feedCharacter _ _ _ _ _ | .feedLost _
  | .feedMessageAction _ | .noticeLifeExpired | .enterHeld _ | .bitTime _ => false

namespace Machine

/-- The writes of a list leave an address alone. -/
def outside (addr : Nat → Word) (rs : List (Nat × Nat)) (a : Nat) : Prop :=
  ∀ r ∈ rs, ∀ i, i < r.2 → (addr r.1 + BitVec.ofNat 32 i).toNat ≠ a

namespace State

/-- The state with the host's writes of a command in memory: what the command finds (log 4). -/
def seen (env : Env) (s : State) : State := { s with mem := memHostWrites s.mem env.hostWrites }

/-- Bytes of the exchange area (R25). -/
def area (s : State) (off len : Nat) : List Byte := memReadRun s.mem (s.areaAddr off) len

/-- An address of the exchange area (R24, R25). -/
def inArea (s : State) (a : Nat) : Prop := ∃ off, off < 0x5400 ∧ (s.areaAddr off).toNat = a

/-- Every address outside the area ranges given (offset and length) reads in t as in s. -/
def keepsBut (s t : State) (rs : List (Nat × Nat)) : Prop :=
  ∀ a, outside s.areaAddr rs a → memRead t.mem a = memRead s.mem a

/-- The area ranges that an append may write: the record at the write position, and the write-position field
(R177). -/
def logRanges (s : State) : List (Nat × Nat) :=
  [(Config.offLog + Config.logSize * s.writePosition.toNat, Config.logSize), (Config.offWritePosition, 2)]

/-- An append finds the log full: the write position plus 1 is the host's read position (R177). -/
def full (s : State) : Prop :=
  s.writePosition + 1 = (le16At (s.area Config.offReadPosition 2) 0).setWidth 9

/-! ## Log records -/

/-- The bytes of a record at a station time, the cell count being that of the stream named (R178, R191). -/
def recordBytes (s : State) (time : Word) (e : LogEvent) : List Byte :=
  [e.kind.code, streamByte e.stream, e.reason, e.aux] ++ le16 e.subject ++ [(0 : Byte), 0] ++ le32 time
    ++ le32 (match e.stream with
      | none => 0
      | some n => (s.unit n).cellCount)

/-- How many records the log has room for: as many as can follow before an append finds it full (R177). -/
def room (s : State) : Nat :=
  ((le16At (s.area Config.offReadPosition 2) 0).setWidth 9 - s.writePosition - 1 : BitVec 9).toNat

/-- The area ranges that k appends may write (R177). -/
def logSpan (s : State) (k : Nat) : List (Nat × Nat) :=
  if k = 0 then []
  else
    (Config.offWritePosition, 2) :: (List.range k).map fun i =>
      (Config.offLog + Config.logSize * (s.writePosition + BitVec.ofNat 9 i).toNat, Config.logSize)

/-- Between s and t the records es have been appended in order, at a station time, as far as the log has room; those
beyond are dropped with LOG_FULL; interrupt pending follows the notify mask (R177 to R179, R191). -/
structure Logged (s t : State) (time : Word) (es : List LogEvent) : Prop where
  count : t.writePosition = s.writePosition + BitVec.ofNat 9 (min es.length s.room)
  record : ∀ k e, es[k]? = some e → k < s.room →
    t.area (Config.offLog + Config.logSize * (s.writePosition + BitVec.ofNat 9 k).toNat) 16 = s.recordBytes time e
  position : es ≠ [] → 0 < s.room → t.area Config.offWritePosition 2 = le16 (t.writePosition.setWidth 16)
  dropped : s.room < es.length → t.conds.flags.getLsbD (Condition.logFull.code - 1) = true
  interrupt : t.control.interrupt =
    (s.control.interrupt || (es.take s.room).any fun e => s.control.notifyMask.getLsbD e.kind.classBit)

/-- A record about an item (R178). -/
def itemRecord (kind : LogKind) (reason : Byte) (desk : BitVec 4) (slot : SlotId) : LogEvent :=
  { kind := kind, stream := none, reason := reason, aux := desk.setWidth 8, subject := slot.setWidth 16 }

/-- A FEED_NOTICE_DROPPED record (R141). -/
def droppedRecord (x : FeedNotice) (reason : Byte) : LogEvent :=
  { kind := .feedNoticeDropped, stream := none, reason := reason, aux := BitVec.ofNat 8 x.urgency, subject := x.id }

/-- The subject of a record about an announcement: its number, with bit 15 for origin FEED (R116). -/
def alertSubject (origin : Origin) (number : Byte) : Half :=
  match origin with
  | .board => 0x00#8 ++ number
  | .feed => 0x80#8 ++ number

/-- A record about an announcement (R116). -/
def alertRecord (kind : LogKind) (stream : Option StreamId) (reason : Byte) (aux : Nat) (a : Announcement) : LogEvent :=
  { kind := kind, stream := stream, reason := reason, aux := BitVec.ofNat 8 aux
    subject := alertSubject a.origin a.number }

/-- The ALERT_REFUSED record of a BEGIN, with the level and the number as read or sent (R116). -/
def refusedRecord (outcome : Byte) (level : Nat) (origin : Origin) (number : Byte) : LogEvent :=
  { kind := .alertRefused, stream := none, reason := outcome, aux := BitVec.ofNat 8 level
    subject := alertSubject origin number }

/-- The records of an ending that leads from s to t (R116): one ALERT_ENDED for each announcement of the group, in
entry order, then for each stream that resumed to an entry an ALERT_ON_STREAM with PROMOTE 3 or RESUME 2. -/
def endingRecords (s t : State) (g : AnnId → Bool) (reason : Byte) : List LogEvent :=
  ((List.finRange 16).filterMap fun e =>
    if g e then (s.announcement e).map fun a => alertRecord .alertEnded none reason a.level a else none)
  ++ (List.finRange 4).filterMap fun n =>
    if (s.positions n).loses g then
      (t.positions n).current.bind fun p => (t.announcement p.entry).map fun a =>
        alertRecord .alertOnStream (some n) (if (((s.positions n).remove g).resume).1 = some .promote then 3 else 2)
          p.level a
    else none

/-! ## Conditions of a command, and transfers that meet BERR -/

/-- The condition unit after conditions caused in order, each with its place: every one sets its flag, and while RUNNING
with no halt pending the first that halts is captured (R155, R157, R158). -/
def condsAfter (s : State) (cs : List (Condition × FaultWhere)) : CondUnit :=
  { s.conds with
    flags := cs.foldl (fun f c => f ||| c.1.bit) s.conds.flags
    haltPending :=
      if s.control.part = .running ∧ s.conds.haltPending = none then
        (cs.find? fun c => decide (c.1 = .boardBus) || c.1.inMask s.conds.haltMask).map fun c => {
          cause := c.1, place := c.2, time := if s.clock.origin = none then 0 else s.clock.time
          cells := match c.2.stream with
            | none => 0
            | some n => (s.unit n).cellCount }
      else s.conds.haltPending }

/-- The PERIOD_CLAMP of a visit that clamped, with the offset of the slot's record as its address (R158). -/
def clampCauses (clamped : Bool) (slot : SlotId) : List (Condition × FaultWhere) :=
  if clamped then
    [(.periodClamp, {
      stream := none, slot := slot, lane := 0xFF, address := BitVec.ofNat 32 (0x0400 + 48 * slot.toNat) })]
  else []

/-- The LOG_FULL of one record of no stream that finds the log full (R158, R177). -/
def fullCauses (s : State) (kind : LogKind) : List (Condition × FaultWhere) :=
  if s.room = 0 then
    [(.logFull, { stream := none, slot := 0xFF, lane := 0xFF, address := kind.code.setWidth 32 })]
  else []

/-- Between s and t a transfer met BERR after the conditions cs, and nothing more was caused (R26, R157); the place of a
BOARD_BUS is left open (log 37). -/
def BoardBus (s t : State) (cs : List (Condition × FaultWhere)) : Prop :=
  ∃ w, t.conds = s.condsAfter (cs ++ [(.boardBus, w)])

/-- The transfers of an append, each an offset with the bytes it writes, none for a read: the read position, and in a
log with room the record and the write position (R177). -/
def appendTransfers (s : State) (e : LogEvent) : List (Nat × List Byte) :=
  (Config.offReadPosition, []) ::
    if s.room = 0 then []
    else
      [(Config.offLog + Config.logSize * s.writePosition.toNat, s.recordBytes s.stationTime e),
        (Config.offWritePosition, le16 ((s.writePosition + 1).setWidth 16))]

/-- The area ranges written when the i-th of the transfers ws meets BERR after k of its bytes (R26). -/
def cutRanges (ws : List (Nat × List Byte)) (i k : Nat) : List (Nat × Nat) :=
  ((ws.take i).map fun w => (w.1, w.2.length)) ++ (ws[i]?.toList.map fun w => (w.1, min k w.2.length))

/-- Memory between s and t when the i-th of the transfers ws, whose ranges lie apart, meets BERR after k of its bytes:
those before it stand whole, it has left its first k bytes, and those after it are not made (R26). -/
structure CutAt (s t : State) (ws : List (Nat × List Byte)) (i k : Nat) : Prop where
  whole : ∀ j w, j < i → ws[j]? = some w → t.area w.1 w.2.length = w.2
  part : ∀ w, ws[i]? = some w → t.area w.1 (min k w.2.length) = w.2.take k
  kept : s.keepsBut t (cutRanges ws i k)

/-! ## Beginnings and endings -/

/-- Stream n takes an announcement offered to it at a level (R97). -/
def takesOffer (s : State) (n : StreamId) (level : Nat) : Prop :=
  s.level n < level ∨ (s.positions n).waiting.length < 4 ∨ ∃ w ∈ (s.positions n).waiting, w.level < level

/-- The entry that stream n displaces when entry e is offered to it at a level (R97, R100). -/
def displacedBy (s : State) (e : AnnId) (n : StreamId) (level : Nat) : Option AnnId :=
  match ((s.positions n).offer e level).1 with
  | .waiting (some w) => some w.entry
  | .waiting none | .current _ | .refused => none

/-- What a BEGIN that reached step 4 does (R94, R97, R100, R113): entry e is reserved for `a`, whose mask holds the
BEGIN's streams, and is offered to each of them at its level there. The entry holds the streams that took it, or is
free again; an announcement displaced loses those streams, and ends when it keeps none; nothing else moves. -/
structure Begun (s t : State) (e : AnnId) (a : Announcement) (level : StreamId → Nat) : Prop where
  positions : ∀ n : StreamId, t.positions n =
    if a.mask.getLsbD n.val then ((s.positions n).offer e (level n)).2 else s.positions n
  burst : ∀ n : StreamId, t.unit n =
    if a.mask.getLsbD n.val = true ∧ s.level n < level n then { s.unit n with burst := (s.unit n).config.burst }
    else s.unit n
  refused : (∀ n : StreamId, a.mask.getLsbD n.val = true → ¬s.takesOffer n (level n)) → t.announcement e = none
  taken : (∃ n : StreamId, a.mask.getLsbD n.val = true ∧ s.takesOffer n (level n)) →
    ∃ mask : BitVec 4, t.announcement e = some { a with mask := mask } ∧
      ∀ n : StreamId, mask.getLsbD n.val = true ↔ a.mask.getLsbD n.val = true ∧ s.takesOffer n (level n)
  others : ∀ f b, f ≠ e → s.announcement f = some b →
    ∃ left : BitVec 4, t.announcement f = (if left = 0 then none else some { b with mask := left }) ∧
      ∀ n : StreamId, left.getLsbD n.val = true ↔ b.mask.getLsbD n.val = true ∧
        ¬(a.mask.getLsbD n.val = true ∧ s.displacedBy e n (level n) = some f)
  free : ∀ f, f ≠ e → s.announcement f = none → t.announcement f = none

/-- The records of a BEGIN that some stream took (R116), a being the announcement with the BEGIN's streams as its mask:
ALERT_BEGUN with the mask it has in t, then for each stream in order an ALERT_ENDED with DISPLACED 5 where the stream
took the last position of the announcement displaced, an ALERT_SUSPENDED for the entry pushed, and an ALERT_ON_STREAM
with BEGIN 1. -/
def beginRecords (s t : State) (e : AnnId) (a : Announcement) (level : StreamId → Nat) : List LogEvent :=
  let displaces := fun n : StreamId => if a.mask.getLsbD n.val then s.displacedBy e n (level n) else none
  alertRecord .alertBegun none (((t.announcement e).map fun b => b.mask.setWidth 8).getD 0) a.level a ::
    (List.finRange 4).flatMap fun n =>
      if !a.mask.getLsbD n.val then []
      else
        match ((s.positions n).offer e (level n)).1 with
        | .refused | .waiting none => []
        | .waiting (some w) =>
          ((s.announcement w.entry).filter fun _ => (t.announcement w.entry).isNone
            && (List.finRange 4).all fun m => decide (m ≤ n) || displaces m != some w.entry).toList.map fun b =>
              alertRecord .alertEnded none 5 b.level b
        | .current pushed =>
          ((pushed.bind fun p => (s.announcement p.entry).map fun b =>
            alertRecord .alertSuspended (some n) 0 p.level b).toList
              ++ [alertRecord .alertOnStream (some n) 1 (level n) a])

/-- What the ending of a group of announcements does to table and streams (R101, R102, R104, R113): the group's
entries are free and its positions gone, every other entry and position stays, and a stream resumes, with its burst
set, exactly when its CURRENT entry was of the group. -/
structure Ended (s t : State) (g : AnnId → Bool) : Prop where
  table : ∀ e, t.announcement e = if g e then none else s.announcement e
  gone : ∀ n p, p ∈ (t.positions n).all → p ∈ (s.positions n).all ∧ g p.entry = false
  kept : ∀ n p, p ∈ (s.positions n).all → g p.entry = false → p ∈ (t.positions n).all
  stays : ∀ n, (s.positions n).loses g = false →
    (t.positions n).current = (s.positions n).current ∧ t.unit n = s.unit n
  resumes : ∀ n, (s.positions n).loses g = true →
    t.positions n = (((s.positions n).remove g).resume).2 ∧
      t.unit n = { s.unit n with burst := (s.unit n).config.burst }

/-- What the freeing of lane i, which held l and was closing, does to the tables (R63, R141): the lane is free and its
load has left its stream; its item is freed with its last lane, and so is a store entry, one that held a notice with
FEED_DROP. -/
structure Freed (s t : State) (i : LaneId) (l : Lane) : Prop where
  lane : t.lane i = none
  others : ∀ j, j ≠ i → t.lane j = s.lane j
  load : ∀ n, t.committed n = if n = l.stream then s.committed n - l.load else s.committed n
  shared : (∃ j k, j ≠ i ∧ s.lane j = some k ∧ k.source = l.source) →
    t.sched.shadow = s.sched.shadow ∧ t.engine = s.engine ∧ t.mem = s.mem ∧ t.writePosition = s.writePosition
  item : ∀ e, l.source = .item e → (∀ j k, j ≠ i → s.lane j = some k → k.source ≠ l.source) →
    t.shadowAt e = none ∧ (∀ f, f ≠ e → t.shadowAt f = s.shadowAt f) ∧ t.engine = s.engine
  notice : ∀ x, l.source = .notice x → (∀ j k, j ≠ i → s.lane j = some k → k.source ≠ l.source) →
    t.notice x = .free ∧ (∀ y, y ≠ x → t.notice y = s.notice y) ∧ t.sched.shadow = s.sched.shadow ∧
      ∀ h, s.notice x = .held h → t.conds.flags.getLsbD (Condition.feedDrop.code - 1) = true

/-! ## Lanes and items -/

/-- The record of an item retired (R44, R190, R191): its part fields, then the state byte RETIRED, then ITEM_RETIRED in
the log. -/
structure Retired (s t : State) (sh : Shadow) (r : RetireReason) : Prop where
  state : t.area (itemOffset sh.slot) 1 = [4]
  fields : t.area (itemOffset sh.slot + 28) 20 = [r.code, sh.taken, 0, sh.outcome.code, 0, 0, 0, 0]
    ++ le32 (BitVec.ofNat 32 sh.airTotal) ++ le32 (BitVec.ofNat 32 sh.slipTotal) ++ le32 sh.lastAired
  kept : s.keepsBut t ((itemOffset sh.slot, 1) :: (itemOffset sh.slot + 28, 20) :: s.logRanges)
  logged : s.Logged t s.stationTime [itemRecord .itemRetired r.code sh.desk sh.slot]

/-- The load that the closing of item e frees at once on a stream: that of its lanes in no repetition (R63). -/
def idleLoad (s : State) (e : ShadowId) (n : StreamId) : Nat :=
  ((List.finRange 96).map fun i =>
    match s.lane i with
    | none => 0
    | some l =>
      if l.source = .item e ∧ l.stream = n ∧ l.closing = none ∧ l.repetition = .idle then l.load else 0).sum

/-- What the closing of item e as a whole does to the tables (R40, R46, R63, R64), sh being its closing entry: its lanes
in no repetition are freed with their loads, the others are closing, each with its first reason; the entry stays while a
lane does and goes with the last one; nothing else moves. -/
structure ClosesItem (s t : State) (e : ShadowId) (sh : Shadow) (why : Closing) : Prop where
  lane : ∀ i l, s.lane i = some l → l.source = .item e → t.lane i =
    if l.closing ≠ none then some l
    else if l.repetition = .idle then none
    else some { l with closing := some why }
  others : ∀ i, (∀ l, s.lane i = some l → l.source ≠ .item e) → t.lane i = s.lane i
  load : ∀ n, t.committed n = s.committed n - s.idleLoad e n
  shadows : ∀ f, f ≠ e → t.shadowAt f = s.shadowAt f
  stays : (∃ i l, t.lane i = some l ∧ l.source = .item e) → t.shadowAt e = some sh
  goes : (∀ i l, t.lane i = some l → l.source ≠ .item e) → t.shadowAt e = none

/-- The write-back of item e in a slot (R43): the streams on which it holds a lane, then the counts and the last-aired
time of its entry. -/
def WrittenBack (t : State) (slot : SlotId) (e : ShadowId) (sh : Shadow) : Prop :=
  (∀ k, k < 8 → ((byteAt (t.area (itemOffset slot + 32) 1) 0).getLsbD k = true ↔
    ∃ i l, t.lane i = some l ∧ l.source = .item e ∧ l.stream.val = k)) ∧
  t.area (itemOffset slot + 33) 15 = [0, 0, 0] ++ le32 (BitVec.ofNat 32 sh.airTotal)
    ++ le32 (BitVec.ofNat 32 sh.slipTotal) ++ le32 sh.lastAired

/-- The load of the lanes of store entry j on stream n that have been freed, `gone` saying which (R63). -/
def goneLoad (s : State) (j : StoreId) (gone : Lane → Bool) (n : StreamId) : Nat :=
  ((List.finRange 96).map fun i =>
    match s.lane i with
    | none => 0
    | some l => if l.source = .notice j ∧ l.stream = n ∧ gone l = true then l.load else 0).sum

/-- How many lanes are free once those of store entry j that are `gone` have been freed. -/
def freeLanes (s : State) (j : StoreId) (gone : Lane → Bool) : Nat :=
  ((List.finRange 96).filter fun i =>
    match s.lane i with
    | none => true
    | some l => decide (l.source = .notice j) && gone l).length

/-- Stream n can take a lane of store entry j for notice x, the lane table apart: it is matched and enabled, holds no
lane of the entry, and its ceiling takes the load (R86). -/
def takesNotice (s : State) (j : StoreId) (x : FeedNotice) (matched : BitVec 4) (gone : Lane → Bool) (n : StreamId) :
    Bool :=
  matched.getLsbD n.val && s.enabled n
    && ((List.finRange 96).all fun i =>
      match s.lane i with
      | none => true
      | some l => !(decide (l.source = .notice j) && l.stream == n && !gone l))
    && decide (s.committed n - s.goneLoad j gone n + (s.noticeLane j x n).load ≤ s.ceiling n)

/-- What asking for lanes of notice x in store entry j on the matched streams leads to, from s to t, the lanes of the
entry that are `gone` having been freed before (R86, R137, R139): in stream order, each stream that can take a lane gets
one while lanes are free, and its committed load rises by the lane's; no other stream gets one. -/
structure LanesGiven (s t : State) (j : StoreId) (x : FeedNotice) (matched : BitVec 4) (gone : Lane → Bool) :
    Prop where
  given : ∀ n, s.takesNotice j x matched gone n = true →
    ((List.finRange 4).filter fun m => decide (m < n) && s.takesNotice j x matched gone m).length < s.freeLanes j gone →
    (∃ i, t.lane i = some (s.noticeLane j x n)) ∧
      t.committed n = s.committed n - s.goneLoad j gone n + (s.noticeLane j x n).load
  others : ∀ n i l, ¬(s.takesNotice j x matched gone n = true ∧
      ((List.finRange 4).filter fun m => decide (m < n) && s.takesNotice j x matched gone m).length <
        s.freeLanes j gone) →
    t.lane i = some l → l.source = .notice j → l.stream = n →
      ∃ k, s.lane i = some k ∧ k.source = .notice j ∧ k.stream = n ∧ gone k = false

/-- A halt that the condition masks cannot bring: no halt bit is set and none is pending. -/
def unmasked (s : State) : Prop := s.conds.haltMask = 0 ∧ s.conds.haltPending = none

/-! ## Invariants -/

/-- The load that the lanes in use on a stream add up to (R67). -/
def laneSum (s : State) (n : StreamId) : Nat :=
  ((List.finRange 96).map fun i =>
    match s.lane i with
    | none => 0
    | some l => if l.stream = n then l.load else 0).sum

/-- The lane table's rules: the committed load of a stream is the sum of its lanes' loads and within its ceiling
units (R67), no two lanes share stream and source (R62), and an item's lane has its shadow entry in use (R60, R61). -/
structure LanesOk (s : State) : Prop where
  sum : ∀ n, s.committed n = s.laneSum n
  bound : ∀ n, s.committed n ≤ s.ceiling n
  single : ∀ i j l k, s.lane i = some l → s.lane j = some k → l.stream = k.stream → l.source = k.source → i = j
  owned : ∀ i l e, s.lane i = some l → l.source = .item e → s.shadowAt e ≠ none

/-- Items and shadow entries (R60, R61): no two entries for one item slot, and a lane for every entry. -/
structure ItemsOk (s : State) : Prop where
  slots : ∀ e f sh th, s.shadowAt e = some sh → s.shadowAt f = some th → sh.slot = th.slot → e = f
  laned : ∀ e sh, s.shadowAt e = some sh → ∃ i l, s.lane i = some l ∧ l.source = .item e

/-- The numbers of a lane (R62, R67): P within 1 to 65535, the countdown within -65535 to P, and the load that its P
and cells give. -/
structure LaneNumbersOk (s : State) : Prop where
  period : ∀ i l, s.lane i = some l → 1 ≤ l.period ∧ l.period ≤ 65535
  countdown : ∀ i l, s.lane i = some l → -65535 ≤ l.countdown ∧ l.countdown ≤ l.period
  load : ∀ i l, s.lane i = some l → l.load = (l.m * 65536 + l.period - 1) / l.period

/-- Repetitions (R71): at most one lane of a stream is in a repetition, and none of which no slot has opened since its
creation (R37, log 41). On air, a lane that waits for its fetch has the
fetch of its stream, and one with parts to form has as many in its stream's staging buffer; a stream with a fetch or
with staged parts has such a lane (R76, R79, R80), a fetch keeps the countdown of a lane that was due (R73, R76), and a
decision is waiting only while no cell is formed (R18). -/
structure AiringOk (s : State) : Prop where
  one : ∀ i j l k, s.lane i = some l → s.lane j = some k → l.stream = k.stream → l.repetition ≠ .idle →
    k.repetition ≠ .idle → i = j
  fresh : ∀ i l, s.lane i = some l → l.fresh = true → l.repetition = .idle
  fetching : s.control.part.onAir = true → ∀ i l, s.lane i = some l → l.repetition = .fetching →
    ∃ f, (s.unit l.stream).fetch = some f ∧ f.lane = i
  parts : s.control.part.onAir = true → ∀ i l k, s.lane i = some l → l.repetition = .parts k →
    1 ≤ k ∧ (s.unit l.stream).staging.length = k
  fetch : ∀ n f, (s.unit n).fetch = some f → -65535 ≤ f.countdown ∧ f.countdown ≤ 0 ∧ (s.unit n).staging = [] ∧
    (s.unit n).asked = false ∧ (∀ c, (s.unit n).buffer ≠ .full c) ∧
    ∃ l e, s.lane f.lane = some l ∧ l.stream = n ∧ l.source = .item e ∧ l.repetition = .fetching
  staged : ∀ n, (s.unit n).staging ≠ [] → ∃ i l, s.lane i = some l ∧ l.stream = n ∧
    l.repetition = .parts (s.unit n).staging.length
  asked : ∀ n c, (s.unit n).asked = true → (s.unit n).buffer ≠ .full c

/-- Streams off air (R15, R16, R23, R118): outside RUNNING and HELD nothing is staged, no fetch is in progress and the
ALERT owing counters are 0; while STOPPED or STARTING every stream is OFF, and on air every stream not enabled. -/
structure OffAirOk (s : State) : Prop where
  empty : s.control.part.onAir = false → ∀ n, (s.unit n).staging = [] ∧ (s.unit n).fetch = none ∧
    (s.unit n).burst = 0 ∧ (s.unit n).interval = 0
  off : s.control.part = .stopped ∨ s.control.part = .starting → ∀ n, (s.unit n).output = .off
  disabled : s.control.part.onAir = true → ∀ n, s.enabled n = false → (s.unit n).output = .off

/-- The scheduler's invariant, with the streams that it airs on. -/
def SchedulerOk (s : State) : Prop := s.LanesOk ∧ s.ItemsOk ∧ s.LaneNumbersOk ∧ s.AiringOk ∧ s.OffAirOk

end State

/-- The rules of a stream's positions (R92, R93): with no CURRENT entry it holds none; levels are 1 to 7; the stack's
levels fall strictly from CURRENT downwards; the waiting list holds at most 4, its levels do not rise from head to
tail, and none is above CURRENT. -/
structure AnnStream.Ok (a : AnnStream) : Prop where
  none_empty : a.current = none → a.suspended = [] ∧ a.waiting = []
  levels : ∀ p ∈ a.all, 1 ≤ p.level ∧ p.level ≤ 7
  stack : ((a.current.toList ++ a.suspended).map Position.level).Pairwise (· > ·)
  queue : ((a.current.toList ++ a.waiting).map Position.level).Pairwise (· ≥ ·)
  short : a.waiting.length ≤ 4

/-- Identities and arrival orders of a stream's positions (R92): at most one position for an announcement; no two
arrival orders the same, all below the arrival counter; among waiting entries of equal level the earlier arrival
first. -/
structure AnnStream.Ordered (a : AnnStream) : Prop where
  single : (a.all.map Position.entry).Nodup
  distinct : (a.all.map Position.arrival).Nodup
  counted : ∀ p ∈ a.all, p.arrival < a.arrivals
  early : a.waiting.Pairwise fun p q => p.level = q.level → p.arrival < q.arrival

namespace State

/-- Feed ceilings of enabled streams are at least 1 (R171), and the feed's matched sets name enabled streams alone
(R124). -/
structure FeedOk (s : State) : Prop where
  ceilings : ∀ n, s.enabled n = true → 1 ≤ (s.unit n).config.feedCeiling
  matched : ∀ n : StreamId, s.receiver.matched.getLsbD n.val = true → s.enabled n = true
  ready : ∀ msg, s.receiver.ready = some msg → ∀ n : StreamId, msg.matched.getLsbD n.val = true → s.enabled n = true

/-- The announcement table and the positions agree (R91, R92): an announcement's mask names the streams on which it
holds a position, and is not empty; every position is of an announcement in the table; enabled streams alone hold
positions; origin and number identify an announcement, and number and nominal level are in their ranges. -/
structure TableOk (s : State) : Prop where
  agree : ∀ e a (n : StreamId), s.announcement e = some a →
    (a.mask.getLsbD n.val = true ↔ ∃ p ∈ (s.positions n).all, p.entry = e)
  held : ∀ e a, s.announcement e = some a → a.mask ≠ 0
  used : ∀ n, ∀ p ∈ (s.positions n).all, s.announcement p.entry ≠ none
  enabled : ∀ n, (s.positions n).all ≠ [] → s.enabled n = true
  single : ∀ e f a b, s.announcement e = some a → s.announcement f = some b → a.origin = b.origin →
    a.number = b.number → e = f
  ranges : ∀ e a, s.announcement e = some a → a.number ≠ 0 ∧ 1 ≤ a.level ∧ a.level ≤ 7

/-- The announcement controller's invariant. -/
def PositionsOk (s : State) : Prop :=
  s.FeedOk ∧ s.TableOk ∧ ∀ n, (s.positions n).Ok ∧ (s.positions n).Ordered

end State

end Machine

end Sys2Proof
end

