-- ==== Sys2Proof/Certificates/Slice0/Obligations.lean ====
section
/-! DEFINITION. The statements for the provers. `s.seen env` is the state a command finds, with the host's writes in
memory; `env.berr = []` says that no transfer of the command meets BERR. A conclusion of the form
`t = { s with … t.… }` says that t differs from s in the fields named alone. -/

open Sys2Proof Sys2Proof.Machine

/-! ## The queue and the clock -/

/-- Step runs the command at the front of the queue on the state with the queue's rest (log 1). -/
def Obligations.StepRunsFrontCommand : Prop :=
  ∀ (c : Instr) (rest : List Instr) (s : State),
    step { s with pending := c :: rest } = exec c { s with pending := rest }

/-- The model's choice of log 2: on an empty queue a step is one cycle of CLK. While RUNNING or HELD the time base counts
f_clk × 100 cycles to a 100 ms tick, every tenth of which is a 1 s tick with the expiries of holds, lives and silence
directly behind it, and the ticks stand in the queue before the commands of the streams and of the feed; in the other
part states it does not count (R142).
In every part state an INTERNAL bit clock has an edge every Ds + 1 cycles: with Ds the divisor of the cell being sent,
or of a LIVE stream that has none, the phase counts from 0 to Ds and falls to 0 at the edge. An edge takes a bit of an
unfinished cell. A slot opens at the edge that takes the 96th bit, or at the next one where no cell is being sent, while
the stream is LIVE and the part RUNNING or HELD (R17, R18; a cell left from before a reset opens no slot at its last
edge, log 20; where the phase stands when a stream enters LIVE is log 43). At the 96th bit of any other stream STREAM_OFF
comes, and while STOPPING it comes without an edge for a LIVE stream with no cell being sent (R23; that such a stream,
an EXTERNAL one too, goes OFF at the next cycle is log 44).
While the receiver is active FEED_IN is sampled once in every Df + 1 cycles: a count goes from 0 to Df, and the cycle
after Df takes the next sample of the waveform (log 26) into the sampler, from which a character may come. While it is
inactive nothing is sampled (R121, R122). -/
def Obligations.ClockCycleCountsToTick : Prop :=
  ∀ s : State, s.pending = [] →
    let onAir := s.control.part.onAir = true
    ∃ t, step s = .next t ∧
      (¬onAir → t.time = s.time ∧ t.pending = s.streamCommands ++ s.feedCommands) ∧
      (onAir → s.time.cycles + 1 < s.general.fclk * 100 → t.time = { s.time with cycles := s.time.cycles + 1 } ∧
        t.pending = s.streamCommands ++ s.feedCommands) ∧
      (onAir → s.general.fclk * 100 ≤ s.time.cycles + 1 → t.time = { s.time with cycles := 0 } ∧
        t.pending = .tick100ms :: ((if s.time.tenths = 9 then
          [.tick1s, .holdExpired Env.quiet, .noticeLifeExpired, .feedLost Env.quiet] else []) ++ s.streamCommands
            ++ s.feedCommands)) ∧
      (∀ n : StreamId,
        let u := s.unit n
        let edge := { u with phase := 0 }
        let count := { u with phase := u.phase + 1 }
        let silent := .bitTime n ∉ t.pending ∧ .slotOpen n ∉ t.pending ∧ .streamOff n ∉ t.pending
        (∀ sh, u.shifter = some sh → sh.sent < 96 →
          (sh.source = .extern → t.unit n = u ∧ silent) ∧
          (sh.source = .intern → u.phase < sh.divisor → t.unit n = count ∧ silent) ∧
          (sh.source = .intern → sh.divisor ≤ u.phase → t.unit n = edge ∧ .bitTime n ∈ t.pending ∧
            (.slotOpen n ∈ t.pending ↔ sh.sent = 95 ∧ u.output = .live ∧ onAir ∧ sh.stale = false) ∧
            (.streamOff n ∈ t.pending ↔ sh.sent = 95 ∧ ¬(u.output = .live ∧ onAir)))) ∧
        ((∀ sh, u.shifter = some sh → 96 ≤ sh.sent) →
          (u.output = .live → s.control.part = .stopping →
            t.unit n = u ∧ .bitTime n ∉ t.pending ∧ .slotOpen n ∉ t.pending ∧ .streamOff n ∈ t.pending) ∧
          (u.output = .off ∨ (s.control.part ≠ .stopping ∧ u.config.source = .extern) → t.unit n = u ∧ silent) ∧
          (u.output = .live → s.control.part ≠ .stopping → u.config.source = .intern → u.phase < u.divisor →
            t.unit n = count ∧ silent) ∧
          (u.output = .live → s.control.part ≠ .stopping → u.config.source = .intern → u.divisor ≤ u.phase →
            t.unit n = edge ∧ .bitTime n ∉ t.pending ∧ .streamOff n ∉ t.pending ∧
            (.slotOpen n ∈ t.pending ↔ onAir)))) ∧
      (s.receiver.active = false → t.receiver = s.receiver ∧ t.feedIn = s.feedIn ∧ s.feedCommands = []) ∧
      (s.receiver.active = true → s.receiver.prescale < s.general.feedDivisor →
        t.receiver = { s.receiver with prescale := s.receiver.prescale + 1 } ∧ t.feedIn = s.feedIn ∧
        s.feedCommands = []) ∧
      (s.receiver.active = true → s.general.feedDivisor ≤ s.receiver.prescale →
        let taken := s.receiver.sampler.take s.general.parity (s.feedIn.headD true)
        t.receiver = { s.receiver with sampler := taken.1, prescale := 0 } ∧ t.feedIn = s.feedIn.tail ∧
        s.feedCommands = match taken.2 with
          | none => []
          | some c => [.feedCharacter c.data c.parity c.mark c.stop Env.quiet]) ∧
      t = { s with time := t.time, units := t.units, feedIn := t.feedIn, receiver := t.receiver, pending := t.pending }

/-! ## Registers and commands -/

/-- R169: which commands are accepted in which part state, and what a refused one does. Of a refused STOP
with work under way this says that the flag is set and the part state stays; StopTakesPartOffAir says what else. -/
def Obligations.CommandsByPartState : Prop :=
  (∀ s : State,
    let refused : Outcome := .next { s with control := { s.control with refused := true } }
    (exec .start s =
      if s.control.part = .stopped then
        .next { s with control := { s.control with part := .starting, refused := false } }
      else refused) ∧
    (s.control.part = .running ∨ s.control.part = .held →
      ∀ u, ∃ t, exec (.stop u) s = .next t ∧ t.control.part = .stopping ∧ t.control.refused = false) ∧
    (¬(s.control.part = .running ∨ s.control.part = .held) → exec (.stop none) s = refused ∧
      ∀ u, ∃ t, exec (.stop u) s = .next t ∧ t.control = { s.control with refused := true }) ∧
    (exec .resume s =
      if s.control.part = .held then
        .next { s with
          control := { s.control with part := .running, refused := false }
          conds := { s.conds with haltCause := none } }
      else refused) ∧
    (exec .reload s =
      if s.control.part = .running ∧ s.control.reloading = false then
        .next { s with control := { s.control with reloading := true, refused := false } }
      else refused) ∧
    exec .ack s = .next { s with control := { s.control with interrupt := false, refused := false } } ∧
    (∃ t, exec .reset s = .next t ∧ t.control.part = .stopped ∧ t.control.refused = false) ∧
    ∀ value, exec (.commandRefused value) s = refused) ∧
  (∀ value : Word,
    let code : Byte := value.setWidth 8
    (code = 1 → Instr.ofCommand value = .start) ∧ (code = 2 → Instr.ofCommand value = .stop none) ∧
    (code = 3 → Instr.ofCommand value = .resume) ∧ (code = 4 → Instr.ofCommand value = .reload) ∧
    (code = 5 → Instr.ofCommand value = .ack) ∧ (code = 6 → Instr.ofCommand value = .reset) ∧
    (code = 0 ∨ 7 ≤ code.toNat → Instr.ofCommand value = .commandRefused value)) ∧
  ∀ (v w : Word) (rest : List Instr) (s : State),
    step { s with pending := Instr.ofCommand v :: Instr.ofCommand w :: rest } =
      exec (Instr.ofCommand v) { s with pending := Instr.ofCommand w :: rest }

/-- R166: the register window, its reads, the effect of its writes, STAT's fields with their codes, and the writes
that are ignored; CMD reads as 0 (R167). -/
def Obligations.RegisterWindow : Prop :=
  ∀ s : State,
    s.readRegister 0x00 = some 0x44100001#32 ∧ s.readRegister 0x04 = some s.control.base ∧
    s.readRegister 0x10 = some (s.conds.flags.setWidth 32) ∧
    (∀ x ∈ [0x14#8, 0x18#8, 0x1C#8], s.readRegister x = some 0 ∧
      ∀ value, Instr.ofRegisterWrite x value = some (.registerWriteIgnored x value)) ∧
    (∃ stat : Word, s.readRegister 0x0C = some stat ∧
      (stat.extractLsb' 0 3).toNat = s.control.part.code ∧ stat.getLsbD 4 = s.control.interrupt ∧
      stat.getLsbD 5 = s.control.refused ∧ (stat.extractLsb' 8 4).toNat = s.control.configError.code ∧
      (stat.extractLsb' 16 5).toNat = causeCode s.conds.haltCause ∧
      stat.getLsbD 3 = false ∧ stat.extractLsb' 6 2 = 0 ∧ stat.extractLsb' 12 4 = 0 ∧ stat.extractLsb' 21 11 = 0) ∧
    (∀ value, Instr.ofRegisterWrite 0x08 value = some (Instr.ofCommand value)) ∧
    (∀ value, Instr.ofRegisterWrite 0x04 value = some (.baseWrite value)) ∧
    (∀ value, Instr.ofRegisterWrite 0x10 value = some (.condWrite value)) ∧
    (∀ x ∈ [0x00#8, 0x0C#8], ∀ value, Instr.ofRegisterWrite x value = some (.registerWriteIgnored x value)) ∧
    (∀ x value, exec (.registerWriteIgnored x value) s = .next s) ∧
    s.readRegister 0x08 = some 0 ∧
    (∀ value, exec (.baseWrite value) s =
      .next (if s.control.part = .stopped then { s with control := { s.control with base := value } } else s)) ∧
    (∀ value, ∃ t, exec (.condWrite value) s = .next t ∧
      t = { s with conds := { s.conds with flags := t.conds.flags } } ∧
      ∀ i, t.conds.flags.getLsbD i = (s.conds.flags.getLsbD i && !value.getLsbD i)) ∧
    [PartState.stopped, .starting, .running, .held, .stopping].map PartState.code = [0, 1, 2, 3, 4] ∧
    [ConfigError.none, .badFormat, .badClock, .noStream, .streamRate, .feedRate, .boardBus].map ConfigError.code =
      [0, 1, 2, 3, 4, 5, 6] ∧
    [none, some Condition.boardBus, some .fetchBus, some .fetchWindow, some .underrun, some .textSubst, some .textTrunc,
      some .periodClamp, some .feedChar, some .feedOverrun, some .feedMsg, some .feedDrop, some .logFull,
      some .valueClamp].map causeCode = List.range 14

/-- A write to BASE replaces the value while the part is STOPPED and is ignored, without the refused flag, in any other
state; and no other command but RST_N, which sets it to 0, changes BASE (R25, R167). -/
def Obligations.BaseChangesOnlyWhileStopped : Prop :=
  (∀ (value : Word) (s : State),
    (s.control.part = .stopped →
      exec (.baseWrite value) s = .next { s with control := { s.control with base := value } }) ∧
    (s.control.part ≠ .stopped → exec (.baseWrite value) s = .next s)) ∧
  ∀ (c : Instr) (s t : State), exec c s = .next t → t.control.base ≠ s.control.base →
    (∃ value, c = .baseWrite value ∧ s.control.part = .stopped ∧ t.control.base = value) ∨
      (c = .rstN ∧ t.control.base = 0)

/-- R153: a condition sets its COND flag and not interrupt pending; the flag stays until the host writes 1 to its bit
(or a reset clears it, R152); a 0 leaves a flag; bits 13 to 31 read as 0; the host may write in every part state; and
of a write and an occurrence the later one decides. -/
def Obligations.CondFlagsAreSticky : Prop :=
  (∀ (c : Condition) (w : FaultWhere) (s : State),
    (s.cause c w).conds.flags = s.conds.flags ||| c.bit ∧ (s.cause c w).conds.flags.getLsbD (c.code - 1) = true ∧
      (s.cause c w).control = s.control) ∧
  (∀ (c : Instr) (s t : State) (i : Nat), exec c s = .next t → s.conds.flags.getLsbD i = true →
    t.conds.flags.getLsbD i = false →
    c.isReset = true ∨ ∃ value : Word, c = .condWrite value ∧ value.getLsbD i = true) ∧
  (∀ (value : Word) (s : State), exec (.condWrite value) s =
    .next { s with conds := { s.conds with flags := s.conds.flags &&& ~~~(value.setWidth 13) } }) ∧
  (∀ (s : State) (i : Nat), 13 ≤ i → ((s.readRegister 0x10).getD 0).getLsbD i = false) ∧
  ∀ (c : Condition) (w : FaultWhere) (value : Word) (s : State), value.getLsbD (c.code - 1) = true →
    (∃ t, exec (.condWrite value) (s.cause c w) = .next t ∧ t.conds.flags.getLsbD (c.code - 1) = false) ∧
    ∃ t, exec (.condWrite value) s = .next t ∧ (t.cause c w).conds.flags.getLsbD (c.code - 1) = true

/-- Every way the part state moves: START, the completion of START, the entry to HELD, RESUME, STOP, the end of the
teardown, and the resets; no other command moves it (R166, R169, R156, R172, R173, R175, R176). -/
def Obligations.PartStateMoves : Prop :=
  ∀ (c : Instr) (s t : State), exec c s = .next t → t.control.part ≠ s.control.part →
    (c.isReset = true ∧ t.control.part = .stopped) ∨
    (c = .start ∧ s.control.part = .stopped ∧ t.control.part = .starting) ∨
    ((∃ env, c = .startCompletion env) ∧ s.control.part = .starting ∧
      (t.control.part = .running ∨ t.control.part = .stopped)) ∨
    ((∃ env, c = .enterHeld env) ∧ s.control.part = .running ∧ s.conds.haltPending ≠ none ∧ t.control.part = .held) ∨
    (c = .resume ∧ s.control.part = .held ∧ t.control.part = .running) ∨
    ((∃ u, c = .stop u) ∧ (s.control.part = .running ∨ s.control.part = .held) ∧ t.control.part = .stopping) ∨
    ((∃ env, c = .stopTeardown env) ∧ s.control.part = .stopping ∧ t.control.part = .stopped)

/-! ## Resets -/

/-- The values the rules give right after RST_N: the part STOPPED with every other STAT field 0 and INT_N high, COND
and the halt mask clear, no window enabled, every shadow entry, lane, announcement and store entry free, every stream
disabled and OFF, the feed inactive and SILENT, the clock UNSET with source LOCAL, and the log's write position 0.
Beside these, the model's choices: the memory list and the queue are empty (logs 6, 1) and the fields of a window not
enabled are 0 (log 30). -/
def Obligations.ResetStateAsSpecified : Prop :=
  State.reset.stat = 0 ∧ State.reset.intN = true ∧ State.reset.control.base = 0 ∧ State.reset.control.notifyMask = 0 ∧
  State.reset.conds = { flags := 0, haltMask := 0, haltCause := none, haltPending := none } ∧
  State.reset.writePosition = 0 ∧
  State.reset.port = { windows := .replicate 8 ⟨0, 0, 0, false, false⟩, checkTaken := 0 } ∧
  (∀ h, airCode State.reset.corrections h = builtinAir h) ∧
  State.reset.sweep = { position := 0, owed := 0, notes := .replicate 256 .none } ∧
  (∀ e, State.reset.shadowAt e = none) ∧ (∀ i, State.reset.lane i = none) ∧ (∀ n, State.reset.committed n = 0) ∧
  (∀ n, State.reset.enabled n = false ∧ (State.reset.unit n).output = .off ∧ (State.reset.unit n).buffer = .empty ∧
    (State.reset.unit n).shifter = none ∧ (State.reset.unit n).staging = [] ∧ (State.reset.unit n).cellCount = 0 ∧
    (State.reset.unit n).burst = 0 ∧ (State.reset.unit n).interval = 0 ∧ (State.reset.unit n).lastMinute = none ∧
    (State.reset.unit n).divisor = 0) ∧
  (∀ e, State.reset.announcement e = none) ∧
  (∀ n, State.reset.positions n = { current := none, suspended := [], waiting := [], arrivals := 0 }) ∧
  State.reset.ann.taken = .replicate 8 0 ∧ State.reset.ann.owed = .replicate 8 none ∧
  (State.reset.receiver.active = false ∧ State.reset.receiver.state = .hunt ∧ State.reset.receiver.matched = 0 ∧
    State.reset.receiver.assembly = [] ∧ State.reset.receiver.ready = none ∧ State.reset.receiver.feed = .silent ∧
    State.reset.receiver.silence = 0) ∧
  (∀ n, State.reset.feedName n = { codes := .replicate 16 0x20, state := .none }) ∧
  (∀ j, State.reset.notice j = .free) ∧
  State.reset.time.cycles = 0 ∧ State.reset.time.tenths = 0 ∧
  State.reset.clock =
    { origin := none, time := 0, offset := 0, source := .localOnly, taken := 0, owed := none } ∧
  State.reset.mem = [] ∧ State.reset.pending = []

/-- RESET and RST_N put every block in its reset state at once, in every part state, RST_N with BASE 0 and RESET with
BASE kept; neither writes memory; and a partly sent cell stays in its shifter with its clock until its 96th bit (R176,
R23). The model's reading: a cell of which no bit has been sent counts as partly sent and the bit clock's phase is
kept (log 20), and what no rule gives a reset value takes that of a log: configuration fields (log 18), the character
sampler and its prescaler (log 26), and the model's own flag of STOP (log 45). -/
def Obligations.ResetCommands : Prop :=
  ∀ (s : State) (c : Instr) (base : Word), (c = .reset ∧ base = s.control.base) ∨ (c = .rstN ∧ base = 0) →
    ∃ t, exec c s = .next t ∧
      t = { State.reset with
        control := { State.reset.control with base := base }
        units := t.units, mem := s.mem, feedIn := s.feedIn, pending := s.pending } ∧
      ∀ n, ((s.unit n).shifterReady = true → t.unit n = State.reset.unit n) ∧
        (∀ sh, (s.unit n).shifter = some sh → sh.sent < 96 →
          t.unit n = { State.reset.unit n with
            shifter := some { sh with stale := true }, phase := (s.unit n).phase })

/-! ## START, RELOAD and STOP -/

/-- R170: the checks of START on the header as read, in order; the first that fails decides the config error. -/
def Obligations.StartChecksInOrder : Prop :=
  ∀ h : State.Header,
    let fclk := (le16At h.general 2).toNat
    let rate := (le16At h.general 12).toNat
    let cs := fun n : StreamId => streamConfigAt h.streams n
    (byteAt h.general 0 ≠ 1 → State.configErrorOf h = .badFormat) ∧
    (byteAt h.general 0 = 1 →
      (fclk < 1000 ∨ 50000 < fclk → State.configErrorOf h = .badClock) ∧
      (1000 ≤ fclk ∧ fclk ≤ 50000 →
        ((∀ n, (cs n).enabled = false) → State.configErrorOf h = .noStream) ∧
        ((∃ n, (cs n).enabled = true) →
          ((∃ n, (cs n).enabled = true ∧ ((cs n).rate < 300 ∨ 4800 < (cs n).rate)) →
            State.configErrorOf h = .streamRate) ∧
          ((∀ n, (cs n).enabled = true → 300 ≤ (cs n).rate ∧ (cs n).rate ≤ 4800) →
            (rate ≠ 0 ∧ (rate < 1200 ∨ 38400 < rate ∨ feedErrorAbove3 fclk rate = true) →
              State.configErrorOf h = .feedRate) ∧
            (rate = 0 ∨ (1200 ≤ rate ∧ rate ≤ 38400 ∧ feedErrorAbove3 fclk rate = false) →
              State.configErrorOf h = .none)))))

/-- A START whose checks fail leaves the part STOPPED with the config error and interrupt pending, every window not
enabled, every correction ignored, both masks clear and the receiver inactive; it takes the taken numbers of the request
records as read, and touches no table, no stream, no status record and no log record (R173, R106, R57, R146). A BERR on
any one of the eight header reads makes START fail with config error BOARD_BUS and sets the COND flag; the halt cause
stands and no last-taken number is taken, those of records read well before it included (the model's choice of log 36)
(R170, R157, R173). A BERR on the write of step 1 fails it likewise, with the write position taken and every table as it
was. One on a transfer of steps 3 and 4 leaves the tables empty, the names, the feed state and the sweep at their start
values and the general configuration and the clock settings those of the header, while no stream takes its configuration
copy (log 31); a STARTED record appended before it stays, status records written before it stay, and those after it are
not written (R172, R173). That the append's own read of the log read position counts among the transfers of step 3 is
the model's reading of log 28, and what the sampler and the prescaler of the inactive receiver hold is log 26. -/
def Obligations.StartFails : Prop :=
  (∀ (env : Env) (s : State) (h : State.Header), s.control.part = .starting → env.berr = [] →
    h = State.headerOf (State.headerReads.map fun r => (s.seen env).area r.1 r.2) → State.configErrorOf h ≠ .none →
    ∃ t, exec (.startCompletion env) s = .next t ∧
      t.control = { s.control with
        part := .stopped, configError := State.configErrorOf h, interrupt := true, notifyMask := 0 } ∧
      t.conds = { s.conds with haltMask := 0 } ∧
      (∀ w : Fin 8, t.port.windows[w].enabled = false) ∧ t.port.checkTaken = byteAt h.windowCheck 1 ∧
      (∀ x, airCode t.corrections x = builtinAir x) ∧
      t.receiver = State.reset.receiver ∧
      t.ann.table = s.ann.table ∧ t.ann.streams = s.ann.streams ∧
      (∀ r : RequestId, t.ann.taken[r] = byteAt h.requests (16 * r.val + 1) ∧ t.ann.owed[r] = none) ∧
      t.clock = { s.clock with taken := byteAt h.clockSet 1, owed := none } ∧
      t.mem = (s.seen env).mem ∧
      t = { s with
        control := t.control, conds := t.conds, port := t.port, corrections := t.corrections, receiver := t.receiver,
        ann := t.ann, clock := t.clock, mem := t.mem, bus := [] }) ∧
  (∀ (env : Env) (s : State) (i k : Nat) (rest : List (Option Nat)), s.control.part = .starting → i < 8 →
    env.berr = List.replicate i none ++ some k :: rest →
    ∃ t, exec (.startCompletion env) s = .next t ∧
      t.control = { s.control with part := .stopped, configError := .boardBus, interrupt := true, notifyMask := 0 } ∧
      t.conds = { s.conds with flags := s.conds.flags ||| Condition.boardBus.bit, haltMask := 0 } ∧
      t.ann = s.ann ∧ t.clock = s.clock ∧ t.port.checkTaken = s.port.checkTaken ∧
      (∀ w : Fin 8, t.port.windows[w].enabled = false) ∧ t.mem = (s.seen env).mem ∧
      t = { s with
        control := t.control, conds := t.conds, port := t.port, corrections := t.corrections, receiver := t.receiver,
        mem := t.mem, bus := [] }) ∧
  (∀ (env : Env) (s : State) (h : State.Header) (i k : Nat) (rest : List (Option Nat)), s.control.part = .starting →
    Memory.wf s.mem = true → 8 ≤ i → i < 16 → env.berr = List.replicate i none ++ some k :: rest →
    h = State.headerOf (State.headerReads.map fun r => (s.seen env).area r.1 r.2) → State.configErrorOf h = .none →
    let read : BitVec 9 := (le16At h.readPosition 0).setWidth 9
    let position := fun p : BitVec 9 => le16 (p.setWidth 16)
    let record := Config.offLog + Config.logSize * read.toNat
    ∃ t, exec (.startCompletion env) s = .next t ∧
      t.control = { s.control with part := .stopped, configError := .boardBus, interrupt := true, notifyMask := 0 } ∧
      t.conds = { s.conds with flags := s.conds.flags ||| Condition.boardBus.bit, haltMask := 0 } ∧
      (∀ w : Fin 8, t.port.windows[w].enabled = false) ∧ t.port.checkTaken = byteAt h.windowCheck 1 ∧
      (∀ x, airCode t.corrections x = builtinAir x) ∧ t.receiver = State.reset.receiver ∧
      (∀ r : RequestId, t.ann.taken[r] = byteAt h.requests (16 * r.val + 1) ∧ t.ann.owed[r] = none) ∧
      t.clock.taken = byteAt h.clockSet 1 ∧ t.clock.owed = none ∧ t.clock.origin = s.clock.origin ∧
      t.clock.time = s.clock.time ∧ t.units = s.units ∧
      (i = 8 → t.sched = s.sched ∧ t.ann.table = s.ann.table ∧ t.ann.streams = s.ann.streams ∧ t.engine = s.engine ∧
        t.sweep = s.sweep ∧ t.general = s.general ∧ t.clock.source = s.clock.source ∧
        t.clock.offset = s.clock.offset ∧ t.writePosition = read ∧
        t.area Config.offWritePosition (min k 2) = (position read).take k ∧
        (s.seen env).keepsBut t [(Config.offWritePosition, min k 2)]) ∧
      (8 < i → t.sched = State.reset.sched ∧ (∀ e, t.announcement e = none) ∧
        (∀ n, t.positions n = State.reset.positions n) ∧ t.engine = State.reset.engine ∧
        t.sweep = State.reset.sweep ∧ t.general = generalOf h.general ∧
        t.clock.source = clockSourceOf (byteAt h.general 6) ∧ t.clock.offset = clampOffset (byteAt h.general 17) ∧
        t.writePosition = (if i < 11 then read else read + 1) ∧
        (i < 11 → t.area Config.offWritePosition 2 = position read) ∧
        (11 < i → t.area Config.offWritePosition 2 = position (read + 1)) ∧
        (11 ≤ i → t.area record 16 =
          [0x50, 0xFF, 0, State.headerMask h, 0, 0, 0, 0] ++ le32 s.stationTime ++ [0, 0, 0, 0]) ∧
        (∀ n : StreamId, n.val + 12 < i → ∃ u, exec (.startCompletion { env with berr := [] }) s = .next u ∧
          t.area (0x0240 + 32 * n.val) 32 = u.statusBytes n) ∧
        (s.seen env).keepsBut t
          [(record, if i = 9 then 0 else Config.logSize), (Config.offWritePosition, 2), (0x0240, 32 * (i - 11))]) ∧
      t = { s with
        control := t.control, conds := t.conds, general := t.general, writePosition := t.writePosition, port := t.port
        corrections := t.corrections, sched := t.sched, ann := t.ann, engine := t.engine, receiver := t.receiver
        sweep := t.sweep, clock := t.clock, mem := t.mem, bus := [] })

/-- A START whose checks pass and that meets no BERR leaves the part RUNNING with the header's values in force, the
tables empty, each enabled stream LIVE with its first decision asked for, the tick counts at 0, the receiver active
when the feed rate is not 0, and STARTED as the one record of the log (R16, R170 to R172, R177, R180). Each value is
taken at its effective value: a value outside its range at the nearer end, an alert burst of 0 as 4, a clock source
other than INTERNAL as EXTERNAL, higher bits ignored (R120, R144, R171). The taken numbers are those read, with no
answer owed (R57, R106, R146), and the status records show the streams with these values and the enabled ones LIVE.
Every INTERNAL stream holds the divisor that its bit rate gives, enabled or not (R171, R21); of a bit rate of 0, which a
stream not enabled may have, there is no quotient and nothing is said (log 35). An enabled stream starts with nothing
staged and no fetch; one not enabled takes its configuration copy and its divisor alone and so stays OFF. The ALERT owing
counters, which START does not reset, are the 0 that STOP and the resets left (R15, R118).
The model's reading: all four streams take their configuration copies at step 5, those not enabled too (log 31). The
model's choices: an EXTERNAL stream holds divisor 0 (log 35); with a feed rate of 0 the sampling divisor held is 0 (log
40); and the sampling prescaler starts from 0 (log 26). -/
def Obligations.StartCompletes : Prop :=
  ∀ (env : Env) (s : State) (h : State.Header), s.control.part = .starting → env.berr = [] →
    Memory.wf s.mem = true →
    h = State.headerOf (State.headerReads.map fun r => (s.seen env).area r.1 r.2) → State.configErrorOf h = .none →
    let read : BitVec 9 := (le16At h.readPosition 0).setWidth 9
    let g := fun k => (byteAt h.general k).toNat
    let fclk := (le16At h.general 2).toNat
    let feedRate := (le16At h.general 12).toNat
    let b := fun (n : StreamId) (k : Nat) => byteAt h.streams (16 * n.val + k)
    let bitRate := fun n : StreamId => (le16At h.streams (16 * n.val + 10)).toNat
    let enabled := fun n : StreamId => (b n 0).getLsbD 0
    let within := fun (low high x : Nat) => max low (min x high)
    ∃ t, exec (.startCompletion env) s = .next t ∧
      t.control.part = .running ∧ t.control.configError = .none ∧ t.control.interrupt = true ∧
      t.control.notifyMask = (byteAt h.general 7).setWidth 6 ∧ t.control.base = s.control.base ∧
      t.conds = { s.conds with haltMask := (le32At h.general 8).setWidth 13, haltCause := none } ∧
      t.general = {
        fclk := fclk, parity := if g 1 = 1 then .even else if g 1 = 2 then .odd else .none
        networkCode := le16At h.general 4, feedRate := feedRate
        defaultHold := within 1 3600 (le16At h.general 14).toNat, silenceLimit := within 2 60 (g 16)
        feedDivisor := if feedRate = 0 then 0 else feedDivisorOf fclk feedRate } ∧
      t.port.windows = windowsOf h.windows ∧ t.corrections = correctionsOf h.corrections ∧
      (∀ e, t.shadowAt e = none) ∧ (∀ i, t.lane i = none) ∧ (∀ n, t.committed n = 0) ∧
      (∀ e, t.announcement e = none) ∧ (∀ n, t.positions n = State.reset.positions n) ∧
      t.engine = State.reset.engine ∧ t.sweep = State.reset.sweep ∧ t.time = State.reset.time ∧
      t.receiver = { State.reset.receiver with active := decide (feedRate ≠ 0) } ∧
      (∀ n, (t.unit n).config = {
          enabled := enabled n, source := if b n 1 = 1 then .intern else .extern, variant := (b n 2).setWidth 5
          region := b n 3, switchThreshold := min (b n 4).toNat 7, quietThreshold := min (b n 5).toNat 7
          feedCeiling := within 1 7 (b n 6).toNat, burst := if b n 7 = 0 then 4 else min (b n 7).toNat 8
          interval := within 4 64 (b n 8).toNat, rate := bitRate n, ceiling := within 10 100 (b n 9).toNat } ∧
        (b n 1 = 1 → bitRate n ≠ 0 → (t.unit n).divisor = bitDivisorOf fclk (bitRate n)) ∧
        (b n 1 ≠ 1 → (t.unit n).divisor = 0) ∧
        (enabled n = true → t.unit n = { s.unit n with
            output := .live, config := (t.unit n).config, divisor := (t.unit n).divisor, buffer := .forming
            asked := true, staging := [], fetch := none, phase := (t.unit n).phase }) ∧
        (enabled n = false → t.unit n = { s.unit n with
            config := (t.unit n).config, divisor := (t.unit n).divisor }) ∧
        (s.OffAirOk → (t.unit n).staging = [] ∧ (t.unit n).fetch = none ∧ (t.unit n).burst = 0 ∧
          (t.unit n).interval = 0 ∧ (enabled n = false → (t.unit n).output = .off))) ∧
      (∀ r : RequestId, t.ann.taken[r] = byteAt h.requests (16 * r.val + 1) ∧ t.ann.owed[r] = none) ∧
      t.port.checkTaken = byteAt h.windowCheck 1 ∧
      t.clock = { s.clock with
        source := if g 6 = 1 then .feed else if g 6 = 2 then .auto else .localOnly
        offset := max (-24) (min (byteAt h.general 17).toInt 24), taken := byteAt h.clockSet 1, owed := none } ∧
      t.writePosition = read + 1 ∧
      t.area (Config.offLog + Config.logSize * read.toNat) 16 =
        [0x50, 0xFF, 0, State.headerMask h, 0, 0, 0, 0] ++ le32 s.stationTime ++ [0, 0, 0, 0] ∧
      (∀ n : StreamId, t.area (0x0240 + 32 * n.val) 32 = t.statusBytes n ∧
        (byteAt (t.area (0x0240 + 32 * n.val) 32) 0).getLsbD 0 = enabled n) ∧
      (s.seen env).keepsBut t
        [(Config.offLog + Config.logSize * read.toNat, Config.logSize), (Config.offWritePosition, 2),
          (Config.offStatus, 128)]

/-- A reload whose four reads end well replaces the windows, the corrections, the notify mask and the halt mask together
from the header and is over; one of which any of the four reads meets BERR replaces none of them and causes BOARD_BUS
(R174, R51, R154). -/
def Obligations.ReloadReplacesTogether : Prop :=
  ∀ (env : Env) (s : State), s.control.reloading = true →
    (env.berr = [] →
      exec (.reloadReplace env) s = .next { s.seen env with
        control := { s.control with
          notifyMask := notifyMaskOf (byteAt ((s.seen env).area 0x0007 1) 0), reloading := false }
        conds := { s.conds with haltMask := haltMaskOf (le32At ((s.seen env).area 0x0008 4) 0) }
        port := { s.port with windows := windowsOf ((s.seen env).area 0x0080 96) }
        corrections := correctionsOf ((s.seen env).area 0x00E0 16)
        bus := [] }) ∧
    ∀ i k rest, i < 4 → env.berr = List.replicate i none ++ some k :: rest →
      ∃ t, exec (.reloadReplace env) s = .next t ∧ t.control = { s.control with reloading := false } ∧
        t.conds.flags = s.conds.flags ||| Condition.boardBus.bit ∧ t.conds.haltMask = s.conds.haltMask ∧
        (s.control.part = .running → s.conds.haltPending = none →
          ∃ c, t.conds.haltPending = some c ∧ c.cause = .boardBus) ∧
        t = { s.seen env with control := t.control, conds := t.conds, bus := [] }

/-- The acceptance of STOP: every LIVE unit discards its buffers and its fetch, both ALERT owing counters become 0,
the receiver is inactive with the ready slot empty, the visits owed are 0, every announcement is gone without a
record, every switch output is inactive, a halt pending is cleared and a reload is abandoned (R175 step 1, R23, R30,
R118, R123, R156). Work under way at the acceptance completes first: a visit, a message being acted on, a clock set or a
window check whose record has been read does all that its own command does, and STOP then what it does alone; of an
announcement poll a request being carried out completes with its answer, and no further one is taken (R175, R31, R59,
R110, R132, R147). A BERR that a transfer of it meets after the acceptance is kept for the teardown, one met before is
not (R175). The model's choices: the receiver keeps its matched set (log 21), its sampler waits for 1 and its prescaler is 0
(log 26); the work of which a part may stand before STOP and a part after it is that of R175's list, and a poll that STOP
meets at its read takes no request (log 45); a STOP refused sets its flag alone, the host's writes that come with it land
all the same, and no work is done (logs 3, 4). -/
def Obligations.StopTakesPartOffAir : Prop :=
  (∀ (u : UnderWay) (s : State), ¬(s.control.part = .running ∨ s.control.part = .held) →
    exec (.stop (some u)) s = .next { s.seen u.env with
      control := { s.control with refused := true }, bus := [] }) ∧
  (∀ s : State, s.control.part = .running ∨ s.control.part = .held →
    ∃ t, exec (.stop none) s = .next t ∧
      t.control = { s.control with
        part := .stopping, refused := false, reloading := false, stopFrom := s.control.part, stopBerr := false } ∧
      (∀ n, t.unit n = { s.unit n with
        buffer := .empty, staging := [], fetch := none, asked := false, burst := 0, interval := 0 }) ∧
      t.receiver = { State.reset.receiver with matched := s.receiver.matched } ∧
      t.sweep = { s.sweep with owed := 0 } ∧
      (∀ e, t.announcement e = none) ∧ (∀ n, t.positions n = State.reset.positions n ∧ t.answ n = false) ∧
      t.ann.taken = s.ann.taken ∧ t.ann.owed = s.ann.owed ∧
      t.conds = { s.conds with haltPending := none } ∧
      t = { s with
        control := t.control, units := t.units, receiver := t.receiver, sweep := t.sweep, ann := t.ann,
        conds := t.conds, time := t.time }) ∧
  (∀ (u : UnderWay) (s : State), s.control.part = .running ∨ s.control.part = .held → (∀ e, s.holdOver e = false) →
    (∀ j, s.lifeOf j ≠ some 0) → u.work = .visit ∨ u.work = .message ∨
      ((u.work = .clockSet ∨ u.work = .windowCheck) ∧ 1 ≤ u.made) →
    ∃ r t met, exec (u.work.command u.env) s = .next r ∧ exec (.stop none) r = .next t ∧
      exec (.stop (some u)) s = .next { t with control := { t.control with stopBerr := met } } ∧
      ((∀ (j k : Nat), u.made ≤ j → u.env.berr[j]? ≠ some (some k)) → met = false) ∧
      (s.conds.flags.getLsbD (Condition.boardBus.code - 1) = false →
        (∀ (j k : Nat), j < u.made → u.env.berr[j]? ≠ some (some k)) →
        met = r.conds.flags.getLsbD (Condition.boardBus.code - 1))) ∧
  (∀ (env : Env) (made : Nat) (s : State) (bs : List Byte) (r : RequestId), s.control.part = .running →
    s.conds.haltPending = none → s.time.annDue = true → (∀ e, s.holdOver e = false) → env.berr = [] →
    Memory.wf s.mem = true → bs = (s.seen env).area 0x0140 128 →
    (∀ x : RequestId, x < r → s.ann.owed[x] = none ∧ byteAt bs (16 * x.val) = s.ann.taken[x]) →
    s.ann.owed[r] = none → byteAt bs (16 * r.val) ≠ s.ann.taken[r] →
    ∃ t, exec (.stop (some { work := .announcements, env := env, made := made })) s = .next t ∧
      t.control.part = .stopping ∧ t.control.stopBerr = false ∧ t.conds.haltPending = none ∧
      (∀ e, t.announcement e = none) ∧ (∀ n, t.positions n = State.reset.positions n) ∧
      (made = 0 → t.ann.taken = s.ann.taken ∧ t.ann.owed = s.ann.owed ∧ t.mem = (s.seen env).mem) ∧
      (made = 1 → t.ann.taken = s.ann.taken.set r (byteAt bs (16 * r.val)) ∧ t.ann.owed = s.ann.owed ∧
        t.area (0x0140 + 16 * r.val + 1) 1 = [byteAt bs (16 * r.val)] ∧
        ∀ x : RequestId, x ≠ r → t.area (0x0140 + 16 * x.val) 16 = (s.seen env).area (0x0140 + 16 * x.val) 16)) ∧
  ∀ (env : Env) (made k : Nat) (rest : List (Option Nat)) (s : State), s.control.part = .running →
    s.conds.haltPending = none → s.time.annDue = true → (∀ e, s.holdOver e = false) → env.berr = some k :: rest →
    ∃ t, exec (.stop (some { work := .announcements, env := env, made := made })) s = .next t ∧
      t.control.part = .stopping ∧ t.control.stopBerr = decide (made = 0) ∧ t.ann.taken = s.ann.taken ∧
      t.ann.owed = s.ann.owed ∧ t.mem = (s.seen env).mem ∧
      t.conds = { s.conds with flags := s.conds.flags ||| Condition.boardBus.bit, haltPending := none }

/-- The teardown, once every stream is OFF and when no transfer meets BERR: every item held is written RETIRED with
reason STOPPED, with its last taken number, outcome and counts, the lane table, the shadow table and the notice store
are empty, the status records show the streams as they stand, the part is STOPPED and the halt cause stays. The log
has an ITEM_RETIRED for each item, with 21, its desk and its slot, in ascending slot order, and then STOPPED with the
part state at the acceptance of STOP, the halt cause and the number of slots retired (R175 steps 3 to 5, R47, R90).
Whatever transfers meet BERR, the tables are empty, the part is STOPPED, the halt cause stays and nothing halts. A
BERR causes BOARD_BUS and ends the writes: on a retirement write of the item of the lowest slot there is no record of
it, no other item's record, no STOPPED record and no status record; with no item held, a BERR in step 5 leaves the
status records after it unwritten (R157, R175; which writes are left out, log 24). After a BERR in the work that completed
in step 1 the teardown makes no transfer: its internal steps alone (R175). -/
def Obligations.StopTeardownRetiresAndEmpties : Prop :=
  (∀ (env : Env) (s : State), s.control.part = .stopping → (∀ n, (s.unit n).output = .off) →
    s.control.stopBerr = false → env.berr = [] → Memory.wf s.mem = true →
    ∃ t, exec (.stopTeardown env) s = .next t ∧ t.control.part = .stopped ∧
      (∀ e sh, s.shadowAt e = some sh →
        t.area (itemOffset sh.slot) 1 = [4] ∧ (t.area (itemOffset sh.slot + 28) 1) = [21]) ∧
      (∀ e sh, s.shadowAt e = some sh → (∀ f th, s.shadowAt f = some th → th.slot = sh.slot → f = e) →
        t.area (itemOffset sh.slot + 28) 20 = [21, sh.taken, 0, sh.outcome.code, 0, 0, 0, 0]
          ++ le32 (BitVec.ofNat 32 sh.airTotal) ++ le32 (BitVec.ofNat 32 sh.slipTotal) ++ le32 sh.lastAired) ∧
      (∃ items : List (ShadowId × Shadow), (items.map Prod.fst).Nodup ∧
        (∀ e sh, (e, sh) ∈ items ↔ s.shadowAt e = some sh) ∧
        (items.map fun x => x.2.slot.toNat).Pairwise (· ≤ ·) ∧
        (s.seen env).Logged t s.stationTime
          ((items.map fun x => State.itemRecord .itemRetired 21 x.2.desk x.2.slot) ++ [{
            kind := .stopped, stream := none, reason := BitVec.ofNat 8 s.control.stopFrom.code
            aux := BitVec.ofNat 8 (causeCode s.conds.haltCause), subject := BitVec.ofNat 16 items.length }]) ∧
        (s.seen env).keepsBut t ((Config.offStatus, 128) :: s.logSpan (items.length + 1) ++
          items.flatMap fun x => [(itemOffset x.2.slot, 1), (itemOffset x.2.slot + 28, 20)])) ∧
      (∀ e, t.shadowAt e = none) ∧ (∀ i, t.lane i = none) ∧ (∀ n, t.committed n = 0) ∧ (∀ j, t.notice j = .free) ∧
      (∀ n : StreamId, t.area (Config.offStatus + 32 * n.val) 32 = t.statusBytes n) ∧
      t.conds.haltCause = s.conds.haltCause ∧
      t = { s with
        control := { s.control with part := .stopped, interrupt := t.control.interrupt }
        conds := { s.conds with flags := t.conds.flags }
        writePosition := t.writePosition, sched := t.sched, engine := { s.engine with store := t.engine.store }
        mem := t.mem, bus := [] }) ∧
  (∀ (env : Env) (s : State), s.control.part = .stopping → (∀ n, (s.unit n).output = .off) →
    s.control.stopBerr = true →
    exec (.stopTeardown env) s = .next { s.seen env with
      control := { s.control with part := .stopped }, sched := State.reset.sched
      engine := { s.engine with store := State.reset.engine.store }, bus := [] }) ∧
  ∀ (env : Env) (s : State), s.control.part = .stopping → (∀ n, (s.unit n).output = .off) →
    s.control.stopBerr = false →
    let met := s.conds.flags ||| Condition.boardBus.bit
    ∃ t, exec (.stopTeardown env) s = .next t ∧
      t.control.part = .stopped ∧ t.conds.haltCause = s.conds.haltCause ∧ t.conds.haltPending = s.conds.haltPending ∧
      (∀ e, t.shadowAt e = none) ∧ (∀ i, t.lane i = none) ∧ (∀ n, t.committed n = 0) ∧ (∀ j, t.notice j = .free) ∧
      (∀ i k rest e sh, env.berr = List.replicate i none ++ some k :: rest → i < 2 → s.shadowAt e = some sh →
        (∀ f th, s.shadowAt f = some th → f ≠ e → sh.slot.toNat < th.slot.toNat) →
        t.conds.flags = met ∧ t.writePosition = s.writePosition ∧ t.control.interrupt = s.control.interrupt ∧
        (s.seen env).keepsBut t [(itemOffset sh.slot + 28, 20), (itemOffset sh.slot, i)]) ∧
      (∀ i k rest, env.berr = List.replicate i none ++ some k :: rest → i < 7 → (∀ e, s.shadowAt e = none) →
        ¬(s.seen env).full → t.conds.flags = met ∧
        t.writePosition = (if i < 2 then s.writePosition else s.writePosition + 1) ∧
        (s.seen env).keepsBut t
          [(Config.offLog + Config.logSize * s.writePosition.toNat, if i = 0 then 0 else Config.logSize),
            (Config.offWritePosition, if i < 2 then 0 else 2), (0x0240, 32 * (i - 2))]) ∧
      t = { s with
        control := { s.control with part := .stopped, interrupt := t.control.interrupt }
        conds := { s.conds with flags := t.conds.flags }
        writePosition := t.writePosition, sched := t.sched, engine := { s.engine with store := t.engine.store }
        mem := t.mem, bus := [] }

/-! ## Conditions and the held state -/

/-- R155 and R158: what the condition unit does with a condition.
A halt pending is never replaced by a later condition: a command leaves it as it is or clears it (R155, R156). -/
def Obligations.ConditionsAndHaltPending : Prop :=
  (∀ (c : Condition) (w : FaultWhere) (s : State),
    (s.control.part = .running → s.conds.haltPending = none → (c.inMask s.conds.haltMask = true ∨ c = .boardBus) →
      s.cause c w = { s with conds := { s.conds with
        flags := s.conds.flags ||| c.bit
        haltPending := some {
          cause := c, place := w, time := if s.clock.origin = none then 0 else s.clock.time,
          cells := match w.stream with
            | none => 0
            | some n => (s.unit n).cellCount } } }) ∧
    (¬(s.control.part = .running ∧ s.conds.haltPending = none ∧ (c.inMask s.conds.haltMask = true ∨ c = .boardBus)) →
      s.cause c w = { s with conds := { s.conds with flags := s.conds.flags ||| c.bit } })) ∧
  (∀ (c : Instr) (s t : State) (p : Capture), exec c s = .next t → s.conds.haltPending = some p →
    t.conds.haltPending = some p ∨
      (t.conds.haltPending = none ∧ (c.isReset = true ∨ (∃ u, c = .stop u) ∨ ∃ env, c = .enterHeld env)))

/-- The entry to HELD: the halt cause is shown and the pending halt cleared, interrupt pending is set, and for a cause
other than BOARD_BUS the captured values are in the fault record and, when the log has room, in a FAULT record
(R159, R160, R188). A write of the fault record that meets BERR leaves the bytes written before it and sets the COND
flag of BOARD_BUS alone; the FAULT record is appended all the same, or dropped by a full log with the flag of LOG_FULL
alone (R155, R159). -/
def Obligations.EntryToHeld : Prop :=
  (∀ (env : Env) (s : State) (c : Capture), s.control.part = .running → s.control.reloading = false →
    s.conds.haltPending = some c → env.berr = [] → Memory.wf s.mem = true →
    ∃ t, exec (.enterHeld env) s = .next t ∧
      t.control = { s.control with part := .held, interrupt := true } ∧
      t.conds.haltCause = some c.cause ∧ t.conds.haltPending = none ∧ t.conds.haltMask = s.conds.haltMask ∧
      (c.cause = .boardBus → t.mem = (s.seen env).mem ∧ t.writePosition = s.writePosition ∧
        t.conds.flags = s.conds.flags) ∧
      (c.cause ≠ .boardBus →
        t.area 0x0200 16 = [BitVec.ofNat 8 c.cause.code, streamByte c.place.stream, c.place.slot, c.place.lane]
          ++ le32 c.place.address ++ le32 c.time ++ le32 c.cells ∧
        (¬(s.seen env).full → t.conds.flags = s.conds.flags ∧ t.writePosition = s.writePosition + 1 ∧
          t.area (Config.offLog + Config.logSize * s.writePosition.toNat) 16 =
            [0x40, streamByte c.place.stream, BitVec.ofNat 8 c.cause.code, c.place.lane]
              ++ le16 (if c.place.slot = 0xFF then 0xFFFF else c.place.slot.setWidth 16) ++ [(0 : Byte), 0]
              ++ le32 c.time ++ le32 c.cells) ∧
        ((s.seen env).full → t.conds.flags = s.conds.flags ||| Condition.logFull.bit ∧
          t.writePosition = s.writePosition) ∧
        (s.seen env).keepsBut t ((0x0200, 16) :: s.logRanges)) ∧
      t = { s with
        control := t.control, conds := t.conds, writePosition := t.writePosition, time := t.time, mem := t.mem,
        bus := [] }) ∧
  ∀ (env : Env) (s : State) (c : Capture) (k : Nat), s.control.part = .running → s.control.reloading = false →
    s.conds.haltPending = some c → c.cause ≠ .boardBus → env.berr = [some k] → Memory.wf s.mem = true →
    let met := s.conds.flags ||| Condition.boardBus.bit
    ∃ t, exec (.enterHeld env) s = .next t ∧
      t.control = { s.control with part := .held, interrupt := true } ∧
      t.conds = { s.conds with flags := t.conds.flags, haltCause := some c.cause, haltPending := none } ∧
      t.area 0x0200 (min k 16) = ([BitVec.ofNat 8 c.cause.code, streamByte c.place.stream, c.place.slot, c.place.lane]
        ++ le32 c.place.address ++ le32 c.time ++ le32 c.cells).take k ∧
      (¬(s.seen env).full → t.conds.flags = met ∧ t.writePosition = s.writePosition + 1 ∧
        t.area (Config.offLog + Config.logSize * s.writePosition.toNat) 16 =
          [0x40, streamByte c.place.stream, BitVec.ofNat 8 c.cause.code, c.place.lane]
            ++ le16 (if c.place.slot = 0xFF then 0xFFFF else c.place.slot.setWidth 16) ++ [(0 : Byte), 0]
            ++ le32 c.time ++ le32 c.cells ∧
        t.area Config.offWritePosition 2 = le16 (t.writePosition.setWidth 16) ∧
        (s.seen env).keepsBut t ((0x0200, min k 16) :: s.logRanges)) ∧
      ((s.seen env).full → t.conds.flags = met ||| Condition.logFull.bit ∧ t.writePosition = s.writePosition ∧
        (s.seen env).keepsBut t [(0x0200, min k 16)]) ∧
      t = { s with
        control := t.control, conds := t.conds, writePosition := t.writePosition, time := t.time, mem := t.mem,
        bus := [] }

/-- While HELD nothing that R117 and R161 freeze moves: no announcement, position, hold, visit, window, taken number,
feed name or remaining life changes, no lane is created, and no countdown falls, whatever command comes but RESUME,
STOP and the resets. -/
def Obligations.HeldFreezes : Prop :=
  ∀ (c : Instr) (s t : State), exec c s = .next t → s.control.part = .held → s.control.reloading = false →
    c ≠ .resume → (∀ u, c ≠ .stop u) → c.isReset = false →
    t.control.part = .held ∧ t.ann = s.ann ∧ t.sweep = s.sweep ∧ t.port = s.port ∧ t.general = s.general ∧
    t.corrections = s.corrections ∧ t.conds.haltCause = s.conds.haltCause ∧ t.conds.haltMask = s.conds.haltMask ∧
    t.clock.taken = s.clock.taken ∧ t.clock.origin = s.clock.origin ∧ t.clock.offset = s.clock.offset ∧
    (∀ n, t.answ n = s.answ n) ∧ t.engine.names.map FeedName.codes = s.engine.names.map FeedName.codes ∧
    (∀ j, t.notice j = s.notice j ∨ t.notice j = .free) ∧
    ∀ i l, t.lane i = some l → ∃ k, s.lane i = some k ∧ l.countdown = k.countdown ∧ l.source = k.source ∧
      l.period = k.period ∧ l.load = k.load

/-! ## The air log and the status records -/

/-- R177, R179 and R191: an append whose transfers end well writes the 16 bytes of the record at the write position and
then the position, and sets interrupt pending when the class is notified; a full log drops the record with LOG_FULL.
The kinds have the codes, and their classes the bits of the notify mask, that the tables give (R178, R192).
R178: a record whose burst meets BERR is not appended, and a position write that meets BERR leaves the record
appended with the write position raised on the part; both cause BOARD_BUS, after whichever of their bytes, and leave in
memory the bytes written before it. -/
def Obligations.LogAppend : Prop :=
  ([LogKind.itemAdmitted, .itemRejected, .itemRetired, .itemDeferred, .alertBegun, .alertOnStream, .alertSuspended,
      .alertEnded, .alertRefused, .feedOk, .feedLost, .feedNoticeDropped, .clockSet, .fault, .started, .stopped].map
        (fun k => (k.code, k.classBit)) =
    [(0x01, 0), (0x02, 0), (0x03, 0), (0x04, 0), (0x10, 1), (0x11, 1), (0x12, 1), (0x13, 1), (0x14, 1), (0x20, 2),
      (0x21, 2), (0x22, 2), (0x30, 3), (0x40, 4), (0x50, 5), (0x51, 5)]) ∧
  (∀ (e : LogEvent) (s : State), s.bus = [] → Memory.wf s.mem = true →
    (s.full → s.report e = s.cause .logFull
      { stream := e.stream, slot := 0xFF, lane := 0xFF, address := e.kind.code.setWidth 32 }) ∧
    (¬s.full →
      (s.report e).area (Config.offLog + Config.logSize * s.writePosition.toNat) 16 =
        [e.kind.code, streamByte e.stream, e.reason, e.aux] ++ le16 e.subject ++ [(0 : Byte), 0] ++ le32 s.stationTime
          ++ le32 (match e.stream with
            | none => 0
            | some n => (s.unit n).cellCount) ∧
      (s.report e).area Config.offWritePosition 2 = le16 ((s.writePosition + 1).setWidth 16) ∧
      s.keepsBut (s.report e) s.logRanges ∧
      s.report e = { s with
        mem := (s.report e).mem, writePosition := s.writePosition + 1
        control := { s.control with
          interrupt := s.control.interrupt || s.control.notifyMask.getLsbD e.kind.classBit } })) ∧
  (∀ (e : LogEvent) (s : State) (k : Nat), ¬s.full → Memory.wf s.mem = true →
    let record := [e.kind.code, streamByte e.stream, e.reason, e.aux] ++ le16 e.subject ++ [(0 : Byte), 0]
      ++ le32 s.stationTime ++ le32 (match e.stream with
        | none => 0
        | some n => (s.unit n).cellCount)
    let off := Config.offLog + Config.logSize * s.writePosition.toNat
    let position := le16 ((s.writePosition + 1).setWidth 16)
    (s.bus = [none, some k] →
      (s.report e).writePosition = s.writePosition ∧ (s.report e).control = s.control ∧
      (s.report e).conds.flags = s.conds.flags ||| Condition.boardBus.bit ∧
      (s.report e).area off (min k 16) = record.take k ∧ s.keepsBut (s.report e) [(off, min k 16)]) ∧
    (s.bus = [none, none, some k] →
      (s.report e).writePosition = s.writePosition + 1 ∧
      (s.report e).conds.flags = s.conds.flags ||| Condition.boardBus.bit ∧
      ((s.report e).control.interrupt = (s.control.interrupt || s.control.notifyMask.getLsbD e.kind.classBit)) ∧
      (s.report e).area off 16 = record ∧
      (s.report e).area Config.offWritePosition (min k 2) = position.take k ∧
      s.keepsBut (s.report e) [(off, Config.logSize), (Config.offWritePosition, min k 2)]))

/-- R180 and R184: a due status write while RUNNING puts the four records of 32 bytes at 0240H, and touches nothing
else; that a write is due, and no more after it, is the model's flag of log 8. Where the write of one record meets BERR
the records before it stand whole, it has left its bytes written before, those after it are not written, and BOARD_BUS
is caused (R26, R157).
A stream status record is 32 bytes, laid out as R189 gives: the output state and feed name state, the level, the
CURRENT announcement, the lanes, ceiling and loads, the cell count and the settings. -/
def Obligations.StatusRecords : Prop :=
  (∀ (env : Env) (s : State), s.control.part = .running → s.time.statusDue = true → env.berr = [] →
    Memory.wf s.mem = true →
    ∃ t, exec (.statusWrite env) s = .next t ∧
      (∀ n : StreamId, t.area (0x0240 + 32 * n.val) 32 = s.statusBytes n) ∧
      (s.seen env).keepsBut t [(0x0240, 128)] ∧
      t = { s with mem := t.mem, time := { s.time with statusDue := false }, bus := [] }) ∧
  (∀ (env : Env) (s : State) (i k : Nat) (rest : List (Option Nat)), s.control.part = .running →
    s.time.statusDue = true → i < 4 → env.berr = List.replicate i none ++ some k :: rest → Memory.wf s.mem = true →
    ∃ t, exec (.statusWrite env) s = .next t ∧ s.BoardBus t [] ∧
      (s.seen env).CutAt t ((List.finRange 4).map fun n => (0x0240 + 32 * n.val, s.statusBytes n)) i k ∧
      t = { s with mem := t.mem, conds := t.conds, time := { s.time with statusDue := false }, bus := [] }) ∧
  (∀ (s : State) (n : StreamId),
    (s.statusBytes n).length = 32 ∧
    byteAt (s.statusBytes n) 11 = BitVec.ofNat 8 (s.unit n).config.ceiling ∧
    le32At (s.statusBytes n) 16 = BitVec.ofNat 32 (s.ceiling n) ∧
    le32At (s.statusBytes n) 20 = (s.unit n).cellCount ∧
    (byteAt (s.statusBytes n) 24).getLsbD 0 = s.enabled n ∧
    (byteAt (s.statusBytes n) 24).getLsbD 1 = decide ((s.unit n).config.source = .intern) ∧
    byteAt (s.statusBytes n) 25 = (s.unit n).config.variant.setWidth 8 ∧
    byteAt (s.statusBytes n) 26 = (s.unit n).config.region ∧
    byteAt (s.statusBytes n) 27 =
      BitVec.ofNat 8 ((s.unit n).config.switchThreshold + 16 * (s.unit n).config.quietThreshold) ∧
    byteAt (s.statusBytes n) 28 = BitVec.ofNat 8 ((s.unit n).config.feedCeiling + 16 * (s.unit n).config.burst) ∧
    byteAt (s.statusBytes n) 29 = BitVec.ofNat 8 (s.unit n).config.interval ∧
    le16At (s.statusBytes n) 30 = BitVec.ofNat 16 (s.unit n).config.rate ∧
    (s.enabled n = false →
      (∀ i, i < 11 → byteAt (s.statusBytes n) i = 0) ∧ le32At (s.statusBytes n) 12 = 0) ∧
    (s.enabled n = true →
      byteAt (s.statusBytes n) 1 = BitVec.ofNat 8 (s.level n) ∧
      byteAt (s.statusBytes n) 10 = BitVec.ofNat 8 (s.laneCount n) ∧
      le32At (s.statusBytes n) 12 = BitVec.ofNat 32 (s.committed n) ∧
      (byteAt (s.statusBytes n) 0).getLsbD 0 = decide ((s.unit n).output = .live) ∧
      ((byteAt (s.statusBytes n) 0).extractLsb' 4 2).toNat = (s.feedName n).state.code ∧
      ((s.positions n).current = none → ∀ i, 2 ≤ i → i < 10 → byteAt (s.statusBytes n) i = 0) ∧
      ∀ p a, (s.positions n).current = some p → s.announcement p.entry = some a →
        byteAt (s.statusBytes n) 2 = originCode (some a.origin) ∧ byteAt (s.statusBytes n) 3 = a.number ∧
        le32At (s.statusBytes n) 4 = a.beginTime ∧ le16At (s.statusBytes n) 8 = BitVec.ofNat 16 a.duration))

/-! ## Ticks, holds, lives and the station clock -/

/-- The two ticks (R142, R143, R31, R105, R128, R140, R144): a 100 ms tick while RUNNING owes 32 visits, up to 256,
and makes the polls and the status write due (log 8); while HELD it is counted alone; in the other part states neither
tick does anything. A 1 s tick while RUNNING advances a SET clock, lowers every hold and every life by 1 and raises
the silence counter up to its limit; while HELD it advances the clock alone. -/
def Obligations.TicksByPartState : Prop :=
  ∀ s : State,
    (s.control.part = .running →
      exec .tick100ms s = .next { s with
        sweep := { s.sweep with owed := min (s.sweep.owed + 32) 256 }
        time := {
          cycles := 0, tenths := if s.time.tenths = 9 then 0 else s.time.tenths + 1,
          secondDue := s.time.secondDue || s.time.tenths == 9, annDue := true, clockDue := true, windowDue := true,
          statusDue := true } }) ∧
    (s.control.part = .held →
      exec .tick100ms s = .next { s with time := { s.time with
        cycles := 0, tenths := if s.time.tenths = 9 then 0 else s.time.tenths + 1,
        secondDue := s.time.secondDue || s.time.tenths == 9 } }) ∧
    (s.control.part.onAir = false → exec .tick100ms s = .next s ∧ exec .tick1s s = .next s) ∧
    (s.time.secondDue = true → s.control.part.onAir = true →
      ∃ t, exec .tick1s s = .next t ∧ t.time = { s.time with secondDue := false } ∧
        t.clock = { s.clock with time := if s.clock.origin = none then s.clock.time else s.clock.time + 1 } ∧
        (s.control.part = .running →
          (∀ e, t.announcement e = (s.announcement e).map fun a => { a with hold := a.hold - 1 }) ∧
          (∀ j, t.notice j = match s.notice j with
            | .held x => .held { x with life := x.life - 1 }
            | .free => .free
            | .releasing => .releasing) ∧
          t.receiver = { s.receiver with silence := min (s.receiver.silence + 1) s.general.silenceLimit } ∧
          t.ann = { s.ann with table := t.ann.table } ∧ t.engine = { s.engine with store := t.engine.store } ∧
          t = { s with
            time := t.time, clock := t.clock, ann := t.ann, engine := t.engine, receiver := t.receiver }) ∧
        (s.control.part = .held → t = { s with time := t.time, clock := t.clock }))

/-- The announcements whose remaining hold is 0 end together while RUNNING: their entries are free and their positions
gone; a stream that did not lose its CURRENT entry keeps it, and every other announcement keeps its entry (R104, R105;
when the command comes is the model's order, log 10). A stream that lost it resumes to the entry that R102 gives, with
its ALERT burst set (R113). Without BERR the log has an ALERT_ENDED with EXPIRED and the
nominal level for each, in entry order, then an ALERT_ON_STREAM for each stream that resumed to an entry, with its
level there (R116). A poll, and the action on an ALERT_BEGIN or ALERT_END, that come
between a tick and HOLD_EXPIRED and meet no BERR take the expiries first and then act on the table that these leave, so
that a renewal begins afresh and an END finds nothing (R105, the tick taken first). -/
def Obligations.ExpiredHoldsEnd : Prop :=
  (∀ (env : Env) (s : State), s.control.part = .running → (∃ e a, s.announcement e = some a ∧ a.hold = 0) →
    ∃ t, exec (.holdExpired env) s = .next t ∧
      (∀ e, t.announcement e = (s.announcement e).filter fun a => a.hold ≠ 0) ∧
      (∀ n p, p ∈ (t.positions n).all → p ∈ (s.positions n).all ∧ s.holdOver p.entry = false) ∧
      (∀ n p, p ∈ (s.positions n).all → s.holdOver p.entry = false → p ∈ (t.positions n).all) ∧
      (∀ n p, (s.positions n).current = some p → s.holdOver p.entry = false →
        (t.positions n).current = some p ∧ t.unit n = s.unit n) ∧
      (∀ n p, (s.positions n).current = some p → s.holdOver p.entry = true →
        t.unit n = { s.unit n with burst := (s.unit n).config.burst }) ∧
      s.Ended t s.holdOver ∧
      (env.berr = [] → Memory.wf s.mem = true →
        (s.seen env).Logged t s.stationTime (s.endingRecords t s.holdOver 3) ∧
        (s.seen env).keepsBut t (s.logSpan (s.endingRecords t s.holdOver 3).length)) ∧
      t = { s with
        control := { s.control with interrupt := t.control.interrupt }
        conds := { s.conds with flags := t.conds.flags, haltPending := t.conds.haltPending }
        writePosition := t.writePosition, units := t.units, mem := t.mem, bus := []
        ann := { s.ann with table := t.ann.table, streams := t.ann.streams } }) ∧
  ∀ (env : Env) (s : State), s.control.part = .running → s.conds.haltPending = none → env.berr = [] →
    ∃ r, exec (.holdExpired env) s = .next r ∧ (∀ e, r.holdOver e = false) ∧
      (s.time.annDue = true → exec (.announcementPoll env) s = exec (.announcementPoll Env.quiet) r) ∧
      ∀ msg, s.receiver.ready = some msg → msg.type = 2 ∨ msg.type = 3 →
        exec (.feedMessageAction env) s = exec (.feedMessageAction Env.quiet) r

/-- A new clock-set request is taken at the poll: an offer honoured by the clock source sets the clock with origin
BOARD, is answered DONE and appends CLOCK_SET with the new origin 1, the clock state before, the request number and the
time just set (R149), one not honoured leaves the clock and is answered IGNORED, and the taken number is the
request number read (R145 to R147; a poll is due once for each tick, log 8).
A write of the answer that meets BERR causes BOARD_BUS: the set stands, the number is taken, and the answer is owed.
That the two answer writes stand after the three transfers of the CLOCK_SET append is the model's order (log 17,
DEDUCED). A transfer of that append that meets BERR causes BOARD_BUS and the answer, a write-back to follow it, is not
made (R26, R156): the set stands, the number is taken, and the answer is owed (DEDUCED, log 13). An answer owed is written in full at a poll, whatever the record then holds, and the offer is not carried
out again; a write of it that meets BERR leaves it owed. A read burst that meets BERR causes BOARD_BUS, and the poll
takes no request and writes no answer (R146, R157). -/
def Obligations.BoardClockSet : Prop :=
  (∀ (env : Env) (s : State) (bs : List Byte), s.control.part = .running → s.conds.haltPending = none →
    s.time.clockDue = true → s.clock.owed = none → env.berr = [] → Memory.wf s.mem = true →
    bs = (s.seen env).area 0x0100 16 → byteAt bs 0 ≠ s.clock.taken →
    ∃ t, exec (.clockSetPoll env) s = .next t ∧ t.time = { s.time with clockDue := false } ∧
      t.area 0x0101 1 = [byteAt bs 0] ∧
      (s.clock.source = .localOnly ∨ (s.clock.source = .auto ∧ s.receiver.feed ≠ .live) →
        t.clock = { s.clock with origin := some .board, time := le32At bs 4, taken := byteAt bs 0 } ∧
        t.area 0x0102 1 = [1] ∧
        (s.seen env).Logged t (le32At bs 4) [{
          kind := .clockSet, stream := none, reason := 1, subject := (byteAt bs 0).setWidth 16
          aux := match s.clock.origin with
            | none => 0
            | some .board => 1
            | some .feed => 2 }] ∧
        (s.seen env).keepsBut t ((0x0101, 2) :: s.logRanges)) ∧
      (s.clock.source = .feed ∨ (s.clock.source = .auto ∧ s.receiver.feed = .live) →
        t.clock = { s.clock with taken := byteAt bs 0 } ∧ t.area 0x0102 1 = [3] ∧
        t.writePosition = s.writePosition ∧ (s.seen env).keepsBut t [(0x0101, 2)]) ∧
      t = { s with
        control := { s.control with interrupt := t.control.interrupt }
        conds := { s.conds with flags := t.conds.flags, haltPending := t.conds.haltPending }
        writePosition := t.writePosition, time := t.time, clock := t.clock, mem := t.mem, bus := [] }) ∧
  (∀ (env : Env) (s : State) (o : ClockOwed), s.control.part = .running → s.conds.haltPending = none →
    s.time.clockDue = true → s.clock.owed = some o → env.berr = [] → Memory.wf s.mem = true →
    ∃ t, exec (.clockSetPoll env) s = .next t ∧ t.area 0x0101 1 = [o.number] ∧ t.area 0x0102 1 = [o.outcome.code] ∧
      (s.seen env).keepsBut t [(0x0101, 2)] ∧
      t = { s with
        time := { s.time with clockDue := false }, clock := { s.clock with owed := none }, mem := t.mem, bus := [] }) ∧
  (∀ (env : Env) (s : State) (k : Nat) (rest : List (Option Nat)), s.control.part = .running →
    s.conds.haltPending = none → s.time.clockDue = true → env.berr = some k :: rest →
    ∃ t, exec (.clockSetPoll env) s = .next t ∧ s.BoardBus t [] ∧
      t = { s.seen env with time := { s.time with clockDue := false }, conds := t.conds, bus := [] }) ∧
  (∀ (env : Env) (s : State) (o : ClockOwed) (i k : Nat), s.control.part = .running → s.conds.haltPending = none →
    s.time.clockDue = true → s.clock.owed = some o → i = 1 ∨ i = 2 → env.berr = List.replicate i none ++ [some k] →
    Memory.wf s.mem = true →
    ∃ t, exec (.clockSetPoll env) s = .next t ∧ s.BoardBus t [] ∧
      (s.seen env).CutAt t [(0x0100, []), (0x0102, [o.outcome.code]), (0x0101, [o.number])] i k ∧
      t = { s with time := { s.time with clockDue := false }, conds := t.conds, mem := t.mem, bus := [] }) ∧
  (∀ (env : Env) (s : State) (bs : List Byte) (i k : Nat), s.control.part = .running → s.conds.haltPending = none →
    s.time.clockDue = true → s.clock.owed = none → Memory.wf s.mem = true →
    bs = (s.seen env).area 0x0100 16 → byteAt bs 0 ≠ s.clock.taken →
    s.clock.source = .localOnly ∨ (s.clock.source = .auto ∧ s.receiver.feed ≠ .live) →
    i = 1 ∨ ((i = 2 ∨ i = 3) ∧ ¬(s.seen env).full) → env.berr = List.replicate i none ++ [some k] →
    let record : LogEvent := {
      kind := .clockSet, stream := none, reason := 1, subject := (byteAt bs 0).setWidth 16
      aux := match s.clock.origin with
        | none => 0
        | some .board => 1
        | some .feed => 2 }
    ∃ t, exec (.clockSetPoll env) s = .next t ∧ t.conds.flags = s.conds.flags ||| Condition.boardBus.bit ∧
      (∃ c, t.conds.haltPending = some c ∧ c.cause = .boardBus) ∧
      t.clock = { s.clock with
        origin := some .board, time := le32At bs 4, taken := byteAt bs 0
        owed := some { outcome := .done, number := byteAt bs 0 } } ∧
      t.writePosition = (if i = 3 then s.writePosition + 1 else s.writePosition) ∧
      t.control.interrupt = (s.control.interrupt || (decide (i = 3) && s.control.notifyMask.getLsbD 3)) ∧
      (s.seen env).CutAt t
        ((0x0100, []) :: ({ s.seen env with clock := t.clock } : State).appendTransfers record) i k ∧
      t = { s with
        control := { s.control with interrupt := t.control.interrupt }
        conds := { s.conds with flags := t.conds.flags, haltPending := t.conds.haltPending }
        writePosition := t.writePosition, time := { s.time with clockDue := false }, clock := t.clock, mem := t.mem
        bus := [] }) ∧
  ∀ (env : Env) (s : State) (bs : List Byte) (i k : Nat), s.control.part = .running → s.conds.haltPending = none →
    s.time.clockDue = true → s.clock.owed = none → ¬(s.seen env).full →
    bs = (s.seen env).area 0x0100 16 → byteAt bs 0 ≠ s.clock.taken →
    let honoured := s.clock.source = .localOnly ∨ (s.clock.source = .auto ∧ s.receiver.feed ≠ .live)
    (i = 0 ∨ i = 1) → env.berr = List.replicate ((if honoured then 4 else 1) + i) none ++ [some k] →
    ∃ t, exec (.clockSetPoll env) s = .next t ∧ t.conds.flags = s.conds.flags ||| Condition.boardBus.bit ∧
      (∃ c, t.conds.haltPending = some c ∧ c.cause = .boardBus) ∧
      t.clock = { s.clock with
        origin := if honoured then some .board else s.clock.origin
        time := if honoured then le32At bs 4 else s.clock.time
        taken := byteAt bs 0
        owed := some { outcome := if honoured then .done else .ignored, number := byteAt bs 0 } } ∧
      (s.seen env).keepsBut t ((0x0101, 2) :: s.logRanges) ∧
      t = { s with
        control := { s.control with interrupt := t.control.interrupt }
        conds := { s.conds with flags := t.conds.flags, haltPending := t.conds.haltPending }
        writePosition := t.writePosition, time := { s.time with clockDue := false }, clock := t.clock, mem := t.mem
        bus := [] }

/-! ## Access windows -/

/-- R49 and R50: window w of a loaded table is read from the 12 bytes at 12 × w: its bounds with the two lowest bits 0
and 1, its desk tag the low four bits of byte 8, its enable and global flags bits 0 and 1 of byte 9, all other bits
ignored; and a window whose low bound is above its high bound holds no range. R52: the containing window of a range is
the lowest-numbered window that admits the desk and alone holds the whole range; without one the range is not contained.
-/
def Obligations.WindowsLoadAndContain : Prop :=
  (∀ (bs : List Byte) (w : Fin 8),
    let v := (windowsOf bs)[w]
    let b := 12 * w.val
    v.low.toNat = (le32At bs b).toNat - (le32At bs b).toNat % 4 ∧
    v.high.toNat = (le32At bs (b + 4)).toNat - (le32At bs (b + 4)).toNat % 4 + 3 ∧
    v.desk.toNat = (byteAt bs (b + 8)).toNat % 16 ∧
    (v.enabled = true ↔ (byteAt bs (b + 9)).toNat % 2 = 1) ∧
    (v.global = true ↔ (byteAt bs (b + 9)).toNat / 2 % 2 = 1)) ∧
  (∀ bs : List Byte,
    (windowOf bs).low.toNat = (le32At bs 0).toNat - (le32At bs 0).toNat % 4 ∧
    (windowOf bs).high.toNat = (le32At bs 4).toNat - (le32At bs 4).toNat % 4 + 3 ∧
    ((windowOf bs).high.toNat < (windowOf bs).low.toNat → ∀ a e, a ≤ e → (windowOf bs).holds a e = false) ∧
    ((windowOf bs).low.toNat < (windowOf bs).high.toNat →
      (windowOf bs).holds (windowOf bs).low.toNat (windowOf bs).high.toNat = true ∧
      4 ∣ (windowOf bs).high.toNat + 1 - (windowOf bs).low.toNat)) ∧
  (∀ (ws : Vector Window 8) (desk : BitVec 4) (a e : Nat), a ≤ e →
    (∀ w : Fin 8, containingWindow ws desk a e = some w ↔
      ((ws[w].enabled = true ∧ (ws[w].global = true ∨ ws[w].desk = desk)) ∧ ws[w].low.toNat ≤ a ∧
        e ≤ ws[w].high.toNat) ∧
      ∀ v : Fin 8, v < w → ¬((ws[v].enabled = true ∧ (ws[v].global = true ∨ ws[v].desk = desk)) ∧
        ws[v].low.toNat ≤ a ∧ e ≤ ws[v].high.toNat)) ∧
    (containingWindow ws desk a e = none ↔
      ∀ w : Fin 8, ¬((ws[w].enabled = true ∧ (ws[w].global = true ∨ ws[w].desk = desk)) ∧ ws[w].low.toNat ≤ a ∧
        e ≤ ws[w].high.toNat)))

/-- R58 and R53: the answer of a new window-check request, its result flags and window index by case, written before
the taken number; nothing else changes, and no log record or condition comes of it. R59: when the write of the taken
number meets BERR, after none of its bytes or after its byte, the results stand in memory, BOARD_BUS is caused and the
last-taken number is unchanged, so that the request stays unanswered in the part's view; so it does when the write of
the results meets BERR, which leaves its bytes written before and no taken number, and when the read of the record does,
which writes nothing. That a poll is due is the model's flag of log 8. -/
def Obligations.WindowCheck : Prop :=
  (∀ (env : Env) (s : State) (bs : List Byte), s.control.part = .running → s.conds.haltPending = none →
    s.time.windowDue = true → env.berr = [] → Memory.wf s.mem = true →
    bs = (s.seen env).area 0x0110 16 → byteAt bs 0 ≠ s.port.checkTaken →
    let a := (le32At bs 8).toNat
    let size := (le32At bs 12).toNat
    let found := containingWindow s.port.windows ((byteAt bs 2).setWidth 4) a (a + size - 1)
    ∃ t, exec (.windowCheckPoll env) s = .next t ∧
      (size = 0 → t.area 0x0113 2 = [0x04, 0xFF]) ∧
      (1 ≤ size → 0xFFFFFFFF < a + size - 1 → t.area 0x0113 2 = [0x02, 0xFF]) ∧
      (1 ≤ size → a + size - 1 ≤ 0xFFFFFFFF → ∀ w, found = some w →
        t.area 0x0113 2 = [0x01, BitVec.ofNat 8 w.val]) ∧
      (1 ≤ size → a + size - 1 ≤ 0xFFFFFFFF → found = none → t.area 0x0113 2 = [0x00, 0xFF]) ∧
      t.area 0x0111 1 = [byteAt bs 0] ∧ (s.seen env).keepsBut t [(0x0111, 1), (0x0113, 2)] ∧
      t = { s with
        port := { s.port with checkTaken := byteAt bs 0 }
        time := { s.time with windowDue := false }, mem := t.mem, bus := [] }) ∧
  (∀ (env : Env) (s : State) (bs : List Byte) (k : Nat), s.control.part = .running → s.conds.haltPending = none →
    s.time.windowDue = true → env.berr = [none, none, some k] → Memory.wf s.mem = true →
    bs = (s.seen env).area 0x0110 16 → byteAt bs 0 ≠ s.port.checkTaken →
    let a := (le32At bs 8).toNat
    let size := (le32At bs 12).toNat
    let found := containingWindow s.port.windows ((byteAt bs 2).setWidth 4) a (a + size - 1)
    ∃ t, exec (.windowCheckPoll env) s = .next t ∧ t.port = s.port ∧
      t.conds.flags = s.conds.flags ||| Condition.boardBus.bit ∧
      (∃ c, t.conds.haltPending = some c ∧ c.cause = .boardBus) ∧
      (size = 0 → t.area 0x0113 2 = [0x04, 0xFF]) ∧
      (1 ≤ size → 0xFFFFFFFF < a + size - 1 → t.area 0x0113 2 = [0x02, 0xFF]) ∧
      (1 ≤ size → a + size - 1 ≤ 0xFFFFFFFF → ∀ w, found = some w →
        t.area 0x0113 2 = [0x01, BitVec.ofNat 8 w.val]) ∧
      (1 ≤ size → a + size - 1 ≤ 0xFFFFFFFF → found = none → t.area 0x0113 2 = [0x00, 0xFF]) ∧
      (k = 0 → (s.seen env).keepsBut t [(0x0113, 2)]) ∧
      (1 ≤ k → t.area 0x0111 1 = [byteAt bs 0] ∧ (s.seen env).keepsBut t [(0x0111, 1), (0x0113, 2)])) ∧
  (∀ (env : Env) (s : State) (k : Nat) (rest : List (Option Nat)), s.control.part = .running →
    s.conds.haltPending = none → s.time.windowDue = true → env.berr = some k :: rest →
    ∃ t, exec (.windowCheckPoll env) s = .next t ∧ s.BoardBus t [] ∧
      t = { s.seen env with time := { s.time with windowDue := false }, conds := t.conds, bus := [] }) ∧
  ∀ (env : Env) (s : State) (bs : List Byte) (i k : Nat), s.control.part = .running → s.conds.haltPending = none →
    s.time.windowDue = true → i = 1 ∨ i = 2 → env.berr = List.replicate i none ++ [some k] → Memory.wf s.mem = true →
    bs = (s.seen env).area 0x0110 16 → byteAt bs 0 ≠ s.port.checkTaken →
    let a := (le32At bs 8).toNat
    let size := (le32At bs 12).toNat
    let results : List Byte :=
      if size = 0 then [0x04, 0xFF]
      else if 0xFFFFFFFF < a + size - 1 then [0x02, 0xFF]
      else
        match containingWindow s.port.windows ((byteAt bs 2).setWidth 4) a (a + size - 1) with
        | some w => [0x01, BitVec.ofNat 8 w.val]
        | none => [0x00, 0xFF]
    ∃ t, exec (.windowCheckPoll env) s = .next t ∧ s.BoardBus t [] ∧
      (s.seen env).CutAt t [(0x0110, []), (0x0113, results), (0x0111, [byteAt bs 0])] i k ∧
      t = { s with time := { s.time with windowDue := false }, conds := t.conds, mem := t.mem, bus := [] }

/-! ## The item sweep -/

/-- Every visit, whatever it finds and however its transfers end, moves the sweep position on by one slot, from 255 to
0, and lowers the visits owed by one, and leaves the notes seen of the other slots; with none owed, not RUNNING or with
a halt pending no visit is made (R31, R33, R156). A visit whose read meets BERR causes BOARD_BUS and takes no action for
the slot (R33). A visit to a record that reads neither POSTED nor ACTIVE, for a slot with no shadow entry, sets the
slot's note seen to NONE and writes nothing (R32). -/
def Obligations.VisitAdvancesSweep : Prop :=
  ∀ (env : Env) (s : State), ∃ t, exec (.sweepVisit env) s = .next t ∧
    (s.control.part = .running → s.conds.haltPending = none → 0 < s.sweep.owed →
      t.sweep.position = s.sweep.position + 1 ∧ t.sweep.owed = s.sweep.owed - 1 ∧
      (∀ slot, slot ≠ s.sweep.position → t.noteSeen slot = s.noteSeen slot) ∧
      (∀ k rest, env.berr = some k :: rest → s.BoardBus t [] ∧
        t = { s.seen env with
          sweep := { s.sweep with position := s.sweep.position + 1, owed := s.sweep.owed - 1 }, conds := t.conds
          bus := [] }) ∧
      ∀ r, env.berr = [] → r = itemRecordOf ((s.seen env).area (itemOffset s.sweep.position) 48) →
        s.shadowOf s.sweep.position = none → r.state ≠ 1 → r.state ≠ 2 →
        t.noteSeen s.sweep.position = .none ∧ t = { s.seen env with sweep := t.sweep, bus := [] }) ∧
    (s.control.part ≠ .running ∨ s.conds.haltPending ≠ none ∨ s.sweep.owed = 0 →
      t = { s.seen env with bus := [] })

/-- The admission checks 1 to 8 in order, each with its reject reason, and then the resource tests with their notes
(R34 to R36, R38, R53, R55, R68). Which verdicts come with PERIOD_CLAMP is the model's reading of log 33: none for
checks 1 to 4, a clamp of check 4 for checks 5 to 7, and that or a clamp of a planned lane for check 8 and for an
admission. The lane planned on each target stream, an enabled stream of the target byte, has P of the period
and a countdown of the delay, both in cells and held to their limits, and the load of its cells per repetition over P
(R35, R65 to R68). -/
def Obligations.AdmissionChecksInOrder : Prop :=
  (∀ (s : State) (r : ItemRecord),
    (itemKindOf r.kind = none → s.verdict r = .reject .badKind false) ∧
    ∀ kind, itemKindOf r.kind = some kind →
      let named := kind = .name ∧ r.feedNameBit = true
      (¬named → lengthOk kind r.length = false → s.verdict r = .reject .badLength false) ∧
      (named ∨ lengthOk kind r.length = true →
        ((∀ n : StreamId, ¬(r.targets.getLsbD n.val = true ∧ s.enabled n = true)) →
          s.verdict r = .reject .noStream false) ∧
        ((∃ n : StreamId, r.targets.getLsbD n.val = true ∧ s.enabled n = true) →
          (r.period = 0 → s.verdict r = .reject .badPeriod false) ∧
          (r.period ≠ 0 →
            let clamp4 := decide (36000 < r.period) || decide (36000 < r.delay)
            let badTime := r.notBefore ≠ 0 ∧ r.expiry ≠ 0 ∧ r.expiry.toNat ≤ r.notBefore.toNat
            let late := s.clock.origin ≠ none ∧ r.expiry ≠ 0 ∧ r.expiry.toNat ≤ s.clock.time.toNat
            (badTime → s.verdict r = .reject .badTime clamp4) ∧
            (¬badTime → late → s.verdict r = .reject .tooLate clamp4) ∧
            (¬badTime → ¬late → ¬named → 0xFFFFFFFF < r.address.toNat + r.length - 1 →
              s.verdict r = .reject .wrap clamp4) ∧
            (¬badTime → ¬late → ¬named → r.address.toNat + r.length - 1 ≤ 0xFFFFFFFF →
              containingWindow s.port.windows r.desk r.address.toNat (r.address.toNat + r.length - 1) = none →
              s.verdict r = .reject .window clamp4) ∧
            (¬badTime → ¬late → (named ∨ (r.address.toNat + r.length - 1 ≤ 0xFFFFFFFF ∧
                containingWindow s.port.windows r.desk r.address.toNat (r.address.toNat + r.length - 1) ≠ none)) →
              let plans := (s.targets r).map (s.planLane r (cellsPerRepetition kind r.length))
              let clamped := clamp4 || plans.any fun p => p.clamped
              ((∃ p ∈ plans, s.ceiling p.stream < p.load) → s.verdict r = .reject .overload clamped) ∧
              ((∀ p ∈ plans, p.load ≤ s.ceiling p.stream) →
                ((∀ e, s.shadowAt e ≠ none) → s.verdict r = .defer .waitShadow) ∧
                ((∃ e, s.shadowAt e = none) →
                  (((List.finRange 96).filter fun i => (s.lane i).isNone).length < plans.length →
                    s.verdict r = .defer .waitLanes) ∧
                  (plans.length ≤ ((List.finRange 96).filter fun i => (s.lane i).isNone).length →
                    ((∃ p ∈ plans, s.ceiling p.stream < s.committed p.stream + p.load) →
                      s.verdict r = .defer .waitLoad) ∧
                    ((∀ p ∈ plans, s.committed p.stream + p.load ≤ s.ceiling p.stream) →
                      s.verdict r = .admitted kind plans clamped))))))))) ∧
  (∀ (s : State) (r : ItemRecord) (n : StreamId),
    n ∈ s.targets r ↔ r.targets.getLsbD n.val = true ∧ s.enabled n = true) ∧
  (∀ (s : State) (r : ItemRecord) (m : Nat) (n : StreamId),
    let cells := fun tenths : Nat => (min tenths 36000 * (s.unit n).config.rate + 480) / 960
    let p := max 1 (min (cells r.period) 65535)
    (s.planLane r m n).stream = n ∧ (s.planLane r m n).period = p ∧
    (s.planLane r m n).countdown = min (cells r.delay) p ∧ (s.planLane r m n).load = (m * 65536 + p - 1) / p ∧
    ((s.planLane r m n).clamped = true ↔ cells r.period < 1 ∨ 65535 < cells r.period ∨ p < cells r.delay)) ∧
  ∀ length : Nat, cellsPerRepetition .name length = 2 ∧ cellsPerRepetition .sibling length = 1 ∧
    cellsPerRepetition .notice length = 1 + (length - 6 + 7) / 8 ∧ cellsPerRepetition .generic length = (length + 7) / 8

/-- A visit that rejects a POSTED record writes its part fields and REJECTED, logs ITEM_REJECTED, and leaves nothing on
the part (R38).
A visit that defers a POSTED record writes the note to byte 30 alone, and logs ITEM_DEFERRED only when the note
differs from the one seen, which it replaces (R36).
A visit that finds an ACTIVE record without a shadow entry retires it as ORPHANED, leaving its counts as they were
read, and logs ITEM_RETIRED (R45).
A rejection causes PERIOD_CLAMP exactly when its verdict came with a clamp, from the slot and the offset of its record,
before the visit's writes (R158; the model's reading of log 33); a deferral and an orphan cause none; and a record
dropped by a full log causes LOG_FULL (R177).
A write that meets BERR causes BOARD_BUS and ends the visit: the writes before it stand whole, it has left its bytes
written before, and nothing after it is made (R33). The model's readings: the note seen is NONE then, and of a
deferral the new note only once byte 30 is written (logs 14, 42); a rejection or an orphan cut short has no record (logs
14, 39). -/
def Obligations.RejectDeferOrphan : Prop :=
  (∀ (env : Env) (s : State) (r : ItemRecord) (why : RejectReason) (clamped : Bool), s.control.part = .running →
    s.conds.haltPending = none → 0 < s.sweep.owed → env.berr = [] → Memory.wf s.mem = true →
    r = itemRecordOf ((s.seen env).area (itemOffset s.sweep.position) 48) →
    s.shadowOf s.sweep.position = none → r.state = 1 → s.verdict r = .reject why clamped →
    ∃ t, exec (.sweepVisit env) s = .next t ∧
      t.area (itemOffset s.sweep.position) 1 = [3] ∧
      t.area (itemOffset s.sweep.position + 28) 20 = [why.code, r.request, 0, 0] ++ List.replicate 16 (0 : Byte) ∧
      t.noteSeen s.sweep.position = .none ∧
      (s.seen env).keepsBut t
        ((itemOffset s.sweep.position, 1) :: (itemOffset s.sweep.position + 28, 20) :: s.logRanges) ∧
      (s.seen env).Logged t s.stationTime [State.itemRecord .itemRejected why.code r.desk s.sweep.position] ∧
      t.conds = s.condsAfter
        (State.clampCauses clamped s.sweep.position ++ (s.seen env).fullCauses .itemRejected) ∧
      t = { s with
        control := { s.control with interrupt := t.control.interrupt }
        conds := { s.conds with flags := t.conds.flags, haltPending := t.conds.haltPending }
        writePosition := t.writePosition, sweep := t.sweep, mem := t.mem, bus := [] }) ∧
  (∀ (env : Env) (s : State) (r : ItemRecord) (note : Note), s.control.part = .running →
    s.conds.haltPending = none → 0 < s.sweep.owed → env.berr = [] → Memory.wf s.mem = true →
    r = itemRecordOf ((s.seen env).area (itemOffset s.sweep.position) 48) →
    s.shadowOf s.sweep.position = none → r.state = 1 → s.verdict r = .defer note →
    ∃ t, exec (.sweepVisit env) s = .next t ∧
      t.area (itemOffset s.sweep.position + 30) 1 = [note.code] ∧ t.noteSeen s.sweep.position = note ∧
      (s.noteSeen s.sweep.position = note → t.conds = s.conds ∧
        (s.seen env).keepsBut t [(itemOffset s.sweep.position + 30, 1)] ∧ t.writePosition = s.writePosition) ∧
      (s.noteSeen s.sweep.position ≠ note → t.conds = s.condsAfter ((s.seen env).fullCauses .itemDeferred) ∧
        (s.seen env).keepsBut t ((itemOffset s.sweep.position + 30, 1) :: s.logRanges) ∧
        (s.seen env).Logged t s.stationTime [State.itemRecord .itemDeferred note.code r.desk s.sweep.position]) ∧
      t = { s with
        control := { s.control with interrupt := t.control.interrupt }
        conds := { s.conds with flags := t.conds.flags, haltPending := t.conds.haltPending }
        writePosition := t.writePosition, sweep := t.sweep, mem := t.mem, bus := [] }) ∧
  (∀ (env : Env) (s : State) (r : ItemRecord), s.control.part = .running →
    s.conds.haltPending = none → 0 < s.sweep.owed → env.berr = [] → Memory.wf s.mem = true →
    r = itemRecordOf ((s.seen env).area (itemOffset s.sweep.position) 48) →
    s.shadowOf s.sweep.position = none → r.state = 2 →
    ∃ t, exec (.sweepVisit env) s = .next t ∧
      t.area (itemOffset s.sweep.position) 1 = [4] ∧
      t.area (itemOffset s.sweep.position + 28) 8 = [20, r.request, 0, 0, 0, 0, 0, 0] ∧
      t.noteSeen s.sweep.position = .none ∧
      (s.seen env).keepsBut t
        ((itemOffset s.sweep.position, 1) :: (itemOffset s.sweep.position + 28, 8) :: s.logRanges) ∧
      (s.seen env).Logged t s.stationTime [State.itemRecord .itemRetired 20 r.desk s.sweep.position] ∧
      t.conds = s.condsAfter ((s.seen env).fullCauses .itemRetired) ∧
      t = { s with
        control := { s.control with interrupt := t.control.interrupt }
        conds := { s.conds with flags := t.conds.flags, haltPending := t.conds.haltPending }
        writePosition := t.writePosition, sweep := t.sweep, mem := t.mem, bus := [] }) ∧
  ∀ (env : Env) (s : State) (r : ItemRecord) (i k : Nat), s.control.part = .running →
    s.conds.haltPending = none → 0 < s.sweep.owed → 1 ≤ i → env.berr = List.replicate i none ++ [some k] →
    Memory.wf s.mem = true → r = itemRecordOf ((s.seen env).area (itemOffset s.sweep.position) 48) →
    s.shadowOf s.sweep.position = none →
    let off := itemOffset s.sweep.position
    let cut := fun (t : State) (cs : List (Condition × FaultWhere)) (ws : List (Nat × List Byte)) (e : LogEvent) =>
      s.BoardBus t cs ∧ (s.seen env).CutAt t ((off, []) :: ws ++ (s.seen env).appendTransfers e) i k ∧
        t.writePosition = (if i = ws.length + 3 then s.writePosition + 1 else s.writePosition) ∧
        t.control = { s.control with
          interrupt := s.control.interrupt || (i == ws.length + 3 && s.control.notifyMask.getLsbD e.kind.classBit) } ∧
        t = { s with
          control := t.control, conds := t.conds, writePosition := t.writePosition, sweep := t.sweep, mem := t.mem
          bus := [] }
    (∀ why clamped, r.state = 1 → s.verdict r = .reject why clamped →
      let e := State.itemRecord .itemRejected why.code r.desk s.sweep.position
      i < 3 + ((s.seen env).appendTransfers e).length →
      ∃ t, exec (.sweepVisit env) s = .next t ∧ t.noteSeen s.sweep.position = .none ∧
        cut t (State.clampCauses clamped s.sweep.position)
          [(off + 28, [why.code, r.request, 0, 0] ++ List.replicate 16 (0 : Byte)), (off, [3])] e) ∧
    (∀ note, r.state = 1 → s.verdict r = .defer note → i = 1 ∨ s.noteSeen s.sweep.position ≠ note →
      let e := State.itemRecord .itemDeferred note.code r.desk s.sweep.position
      i < 2 + ((s.seen env).appendTransfers e).length →
      ∃ t, exec (.sweepVisit env) s = .next t ∧
        t.noteSeen s.sweep.position = (if i = 1 then s.noteSeen s.sweep.position else note) ∧
        cut t [] [(off + 30, [note.code])] e) ∧
    (r.state = 2 →
      let e := State.itemRecord .itemRetired 20 r.desk s.sweep.position
      i < 3 + ((s.seen env).appendTransfers e).length →
      ∃ t, exec (.sweepVisit env) s = .next t ∧ t.noteSeen s.sweep.position = .none ∧
        cut t [] [(off + 28, [20, r.request, 0, 0, 0, 0, 0, 0]), (off, [4])] e)

/-- A visit that admits a POSTED record puts it in the lowest-numbered free shadow entry, gives it one idle lane on
each target stream in a lane that was free, with P, countdown and load of its period and delay, raises those streams'
committed loads, writes its part fields and ACTIVE, and appends ITEM_ADMITTED with reason 0, the desk and the slot (R37,
R60 to R62, R68, R178). Each lane is fresh, so that SelectionOrder passes over it until the next slot opening on its
stream (R37). The admission causes PERIOD_CLAMP exactly when its verdict came with a clamp, from the slot and the offset
of its record, before the visit's writes (R158; the model's reading of log 33), and LOG_FULL where a full log drops its
record (R177). A write that meets BERR causes BOARD_BUS and ends the visit with the shadow entry, the lanes and the
loads as they were created: the writes before it stand whole, it has left its bytes written before, and nothing after it
is made (R33; that no ITEM_ADMITTED is appended then is the model's reading of log 14). -/
def Obligations.AdmittedItemHasLanes : Prop :=
  (∀ (env : Env) (s : State) (r : ItemRecord) (kind : ItemKind) (plans : List LanePlan) (clamped : Bool),
    s.control.part = .running → s.conds.haltPending = none → 0 < s.sweep.owed → env.berr = [] →
    Memory.wf s.mem = true → s.LanesOk →
    r = itemRecordOf ((s.seen env).area (itemOffset s.sweep.position) 48) →
    s.shadowOf s.sweep.position = none → r.state = 1 → s.verdict r = .admitted kind plans clamped →
    ∃ e t, exec (.sweepVisit env) s = .next t ∧ s.shadowAt e = none ∧ (∀ f, f < e → s.shadowAt f ≠ none) ∧
      t.shadowAt e = some {
        slot := s.sweep.position, kind := kind, cls := r.cls, desk := r.desk, feedName := r.feedName kind,
        address := r.address, length := r.length, m := cellsPerRepetition kind r.length,
        period := min r.period 36000, notBefore := r.notBefore, expiry := r.expiry, limit := r.limit,
        taken := r.request, outcome := .none, closing := none, airTotal := 0, slipTotal := 0, lastAired := 0 } ∧
      (∀ f, f ≠ e → t.shadowAt f = s.shadowAt f) ∧
      (∀ n : StreamId, (∃ p ∈ plans, p.stream = n) ↔ r.targets.getLsbD n.val = true ∧ s.enabled n = true) ∧
      (∀ p ∈ plans,
        let cells := fun tenths : Nat => (min tenths 36000 * (s.unit p.stream).config.rate + 480) / 960
        p.period = max 1 (min (cells r.period) 65535) ∧ p.countdown = min (cells r.delay) p.period ∧
        p.load = (cellsPerRepetition kind r.length * 65536 + p.period - 1) / p.period) ∧
      (∀ p ∈ plans, ∃ i, s.lane i = none ∧ t.lane i = some {
        source := .item e, stream := p.stream, cls := r.cls, period := p.period,
        m := cellsPerRepetition kind r.length, countdown := (p.countdown : Int), air := 0, load := p.load,
        repetition := .idle, closing := none, fresh := true }) ∧
      (∀ i l, s.lane i = some l → t.lane i = some l) ∧
      (∀ p ∈ plans, t.committed p.stream = s.committed p.stream + p.load) ∧
      t.area (itemOffset s.sweep.position) 1 = [2] ∧
      t.area (itemOffset s.sweep.position + 28) 4 = [0, r.request, 0, 0] ∧
      (∀ n : StreamId, (byteAt (t.area (itemOffset s.sweep.position + 32) 1) 0).getLsbD n.val =
        decide (∃ p ∈ plans, p.stream = n)) ∧
      t.area (itemOffset s.sweep.position + 33) 15 = List.replicate 15 (0 : Byte) ∧
      t.noteSeen s.sweep.position = .none ∧
      (s.seen env).Logged t s.stationTime [State.itemRecord .itemAdmitted 0 r.desk s.sweep.position] ∧
      t.conds = s.condsAfter
        (State.clampCauses clamped s.sweep.position ++ (s.seen env).fullCauses .itemAdmitted) ∧
      (s.seen env).keepsBut t
        ((itemOffset s.sweep.position, 1) :: (itemOffset s.sweep.position + 28, 20) :: s.logRanges) ∧
      t = { s with
        control := { s.control with interrupt := t.control.interrupt }
        conds := { s.conds with flags := t.conds.flags, haltPending := t.conds.haltPending }
        writePosition := t.writePosition, sweep := t.sweep, sched := t.sched, mem := t.mem, bus := [] }) ∧
  ∀ (env : Env) (s : State) (r : ItemRecord) (kind : ItemKind) (plans : List LanePlan) (clamped : Bool) (i k : Nat),
    s.control.part = .running → s.conds.haltPending = none → 0 < s.sweep.owed → 1 ≤ i →
    env.berr = List.replicate i none ++ [some k] → Memory.wf s.mem = true →
    r = itemRecordOf ((s.seen env).area (itemOffset s.sweep.position) 48) →
    s.shadowOf s.sweep.position = none → r.state = 1 → s.verdict r = .admitted kind plans clamped →
    let off := itemOffset s.sweep.position
    let e := State.itemRecord .itemAdmitted 0 r.desk s.sweep.position
    let transfers := (s.seen env).appendTransfers e
    i < 3 + transfers.length →
    ∃ u t, exec (.sweepVisit { env with berr := [] }) s = .next u ∧ exec (.sweepVisit env) s = .next t ∧
      t.sched = u.sched ∧ t.sweep = u.sweep ∧ s.BoardBus t (State.clampCauses clamped s.sweep.position) ∧
      (s.seen env).CutAt t ((off, []) :: (off + 28, u.area (off + 28) 20) :: (off, [2]) :: transfers) i k ∧
      t.writePosition = (if i = 5 then s.writePosition + 1 else s.writePosition) ∧
      t.control = { s.control with
        interrupt := s.control.interrupt || (i == 5 && s.control.notifyMask.getLsbD e.kind.classBit) } ∧
      t = { s with
        control := t.control, conds := t.conds, writePosition := t.writePosition, sweep := t.sweep, sched := t.sched
        mem := t.mem, bus := [] }

/-- A visit to an item held (R32, R39, R40, R42 to R44, R46, R63, R64). With no request and no expiry it writes back
bytes 32 to 47 alone: the lane mask, the counts and the last-aired time. A WITHDRAW request, an expiry that the
station time has reached and a record that reads other than ACTIVE close every lane: those in no repetition are freed
at once, those in one are closing, each with its first reason. An item left with a lane stays; one left with none
leaves the shadow table in the same visit and its record reads RETIRED with the reason, the number taken and the
outcome. A WITHDRAW is answered DONE in bytes 29 and 31, and a WITHDRAW past the expiry time stays a WITHDRAW. A
request on an item that is closing as a whole is answered IGNORED and changes nothing, and a disowned one is left
alone until its last lane is freed. A retirement that finds the log full causes LOG_FULL (R177).
A write of the visit that meets BERR causes BOARD_BUS, with the request taken and the lanes closed and freed all the
same: the writes before it stand whole, it has left its bytes written before, and the visit's own writes after it are not
made (R33). An item left with no lane is retired all the same, its ITEM_RETIRED appended, also when it is a write of the
retirement that meets BERR, which then leaves its bytes written before (R44). The model's readings: which writes of the
visit are left out and that the retirement follows a BERR of another write (log 14), and that byte 29 is written before
byte 31 (log 38). -/
def Obligations.WithdrawRetiresIdleItem : Prop :=
  (∀ (env : Env) (s : State) (r : ItemRecord) (e : ShadowId) (sh : Shadow), s.control.part = .running →
    s.conds.haltPending = none → 0 < s.sweep.owed → env.berr = [] → Memory.wf s.mem = true →
    r = itemRecordOf ((s.seen env).area (itemOffset s.sweep.position) 48) →
    s.shadowOf s.sweep.position = some e → s.shadowAt e = some sh → sh.slot = s.sweep.position →
    (∃ i l, s.lane i = some l ∧ l.source = .item e) →
    let off := itemOffset s.sweep.position
    let asks := r.request ≠ sh.taken
    let expired := s.clock.origin ≠ none ∧ sh.expiry ≠ 0 ∧ sh.expiry.toNat ≤ s.clock.time.toNat
    let quiet := fun t : State => t.conds = s.conds ∧ t.writePosition = s.writePosition
    let ends := fun (t : State) (sh1 : Shadow) (why : Closing) =>
      s.ClosesItem t e { sh1 with closing := some why } why ∧
        (t.shadowAt e = none → (s.seen env).Retired t sh1 why.retireReason ∧
          t.conds = s.condsAfter ((s.seen env).fullCauses .itemRetired))
    ∃ t, exec (.sweepVisit env) s = .next t ∧
      (r.state = 2 → ¬asks → ¬expired → t.sched = s.sched ∧ quiet t ∧ t.WrittenBack s.sweep.position e sh ∧
        (s.seen env).keepsBut t [(off + 32, 16)]) ∧
      (r.state = 2 → asks → r.code = 1 → sh.closing = none →
        ends t { sh with taken := r.request, outcome := .done } .withdrawn ∧
        (t.shadowAt e ≠ none → quiet t ∧ t.WrittenBack s.sweep.position e sh ∧ t.area (off + 29) 1 = [r.request] ∧
          t.area (off + 31) 1 = [1] ∧ (s.seen env).keepsBut t [(off + 29, 1), (off + 31, 1), (off + 32, 16)])) ∧
      (r.state = 2 → ¬asks → expired → sh.closing = none → ends t sh .expired ∧
        (t.shadowAt e ≠ none → quiet t ∧ t.WrittenBack s.sweep.position e sh ∧
          (s.seen env).keepsBut t [(off + 32, 16)])) ∧
      (r.state ≠ 2 → sh.closing = none → ends t sh .disowned ∧
        (t.shadowAt e ≠ none → quiet t ∧ t.mem = (s.seen env).mem)) ∧
      (sh.closing ≠ none → (∀ i l, s.lane i = some l → l.source = .item e → l.closing ≠ none) →
        quiet t ∧ t.sched.lanes = s.sched.lanes ∧ t.sched.committed = s.sched.committed ∧
        (∀ f, f ≠ e → t.shadowAt f = s.shadowAt f) ∧
        (r.state ≠ 2 → t.shadowAt e = some sh ∧ t.mem = (s.seen env).mem) ∧
        (r.state = 2 → ¬asks → t.shadowAt e = some sh ∧ t.WrittenBack s.sweep.position e sh ∧
          (s.seen env).keepsBut t [(off + 32, 16)]) ∧
        (r.state = 2 → asks → t.shadowAt e = some { sh with taken := r.request, outcome := .ignored } ∧
          t.WrittenBack s.sweep.position e sh ∧ t.area (off + 29) 1 = [r.request] ∧ t.area (off + 31) 1 = [3] ∧
          (s.seen env).keepsBut t [(off + 29, 1), (off + 31, 1), (off + 32, 16)])) ∧
      (r.state ≠ 1 → t.noteSeen s.sweep.position = .none) ∧
      t = { s with
        control := { s.control with interrupt := t.control.interrupt }
        conds := { s.conds with flags := t.conds.flags, haltPending := t.conds.haltPending }
        writePosition := t.writePosition, sweep := t.sweep, sched := t.sched, mem := t.mem, bus := [] }) ∧
  ∀ (env : Env) (s : State) (r : ItemRecord) (e : ShadowId) (sh : Shadow) (i k : Nat), s.control.part = .running →
    s.conds.haltPending = none → 0 < s.sweep.owed → 1 ≤ i → env.berr = List.replicate i none ++ [some k] →
    Memory.wf s.mem = true →
    r = itemRecordOf ((s.seen env).area (itemOffset s.sweep.position) 48) →
    s.shadowOf s.sweep.position = some e → s.shadowAt e = some sh → sh.slot = s.sweep.position →
    (∃ i l, s.lane i = some l ∧ l.source = .item e) →
    let off := itemOffset s.sweep.position
    let asks := r.request ≠ sh.taken
    let expired := s.clock.origin ≠ none ∧ sh.expiry ≠ 0 ∧ sh.expiry.toNat ≤ s.clock.time.toNat
    ∃ u t, exec (.sweepVisit { env with berr := [] }) s = .next u ∧ exec (.sweepVisit env) s = .next t ∧
      let back := (off + 32, u.area (off + 32) 16)
      let answered := fun outcome : Byte => [(off + 29, [r.request]), (off + 31, [outcome]), back]
      let stays := fun own : List (Nat × List Byte) => s.BoardBus t [] ∧ t.writePosition = s.writePosition ∧
        t.control = s.control ∧ (s.seen env).CutAt t ((off, []) :: own) i k
      let ends := fun (sh1 : Shadow) (why : Closing) (own : List (Nat × List Byte)) =>
        let fields := [why.retireReason.code, sh1.taken, 0, sh1.outcome.code, 0, 0, 0, 0]
          ++ le32 (BitVec.ofNat 32 sh1.airTotal) ++ le32 (BitVec.ofNat 32 sh1.slipTotal) ++ le32 sh1.lastAired
        s.ClosesItem t e { sh1 with closing := some why } why ∧
        (t.shadowAt e ≠ none → i ≤ own.length → stays own) ∧
        (t.shadowAt e = none → i ≤ own.length + 2 →
          (∃ w, t.conds = s.condsAfter ((.boardBus, w) :: (s.seen env).fullCauses .itemRetired)) ∧
          (s.seen env).Logged t s.stationTime
            [State.itemRecord .itemRetired why.retireReason.code sh.desk sh.slot] ∧
          (i ≤ own.length → (s.seen env).Retired t sh1 why.retireReason) ∧
          (i = own.length + 1 → t.area (off + 28) (min k 20) = fields.take k) ∧
          (i = own.length + 2 → t.area (off + 28) 20 = fields ∧ t.area off (min k 1) = [(4 : Byte)].take k) ∧
          (own.length < i → (s.seen env).keepsBut t
            (State.cutRanges ((off, []) :: own ++ [(off + 28, fields), (off, [4])]) i k ++ s.logRanges)))
      (r.state = 2 → ¬asks → ¬expired → i = 1 → t.sched = s.sched ∧ stays [back]) ∧
      (r.state = 2 → asks → r.code = 1 → sh.closing = none →
        ends { sh with taken := r.request, outcome := .done } .withdrawn (answered 1)) ∧
      (r.state = 2 → ¬asks → expired → sh.closing = none → ends sh .expired [back]) ∧
      (r.state ≠ 2 → sh.closing = none → ends sh .disowned []) ∧
      (sh.closing ≠ none → (∀ i l, s.lane i = some l → l.source = .item e → l.closing ≠ none) → r.state = 2 →
        t.sched.lanes = s.sched.lanes ∧ t.sched.committed = s.sched.committed ∧
        (∀ f, f ≠ e → t.shadowAt f = s.shadowAt f) ∧
        (¬asks → i = 1 → t.shadowAt e = some sh ∧ stays [back]) ∧
        (asks → i ≤ 3 →
          t.shadowAt e = some { sh with taken := r.request, outcome := .ignored } ∧ stays (answered 3))) ∧
      (r.state ≠ 1 → t.noteSeen s.sweep.position = .none) ∧
      t = { s with
        control := { s.control with interrupt := t.control.interrupt }
        conds := { s.conds with flags := t.conds.flags, haltPending := t.conds.haltPending }
        writePosition := t.writePosition, sweep := t.sweep, sched := t.sched, mem := t.mem, bus := [] }

/-- R41 and R69: an AMEND is refused whole, with every lane, load and field of the item as it was, or done whole, with
the new class, period and load on every lane and the smaller countdown. A visit takes an AMEND of an item not closing
as a whole with that effect, and any other code above 1, or 0, with none and outcome IGNORED: the number and the
outcome stand in the shadow entry and in bytes 29 and 31, and the record is written back (R39, R43). An expiry that
the station time has reached is checked after the request (R42). An AMEND causes PERIOD_CLAMP, done or refused, exactly
when its period is above 36000 or its conversion clamps on some lane of the item (R41, R65, R69), from the slot and the
offset of its record, before the visit's writes (R158; the model's reading of log 33). A write of the visit that meets
BERR causes BOARD_BUS with the request taken and its effect as it was: the writes before it stand whole, it has left its
bytes written before, and those after it are not made (R33). The model's readings: after a write of byte 29 or 31 that
met BERR no expiry is checked (log 14), and byte 29 is written before byte 31 (log 38). -/
def Obligations.AmendAllOrNothing : Prop :=
  (∀ (s : State) (e : ShadowId) (sh : Shadow) (slot : SlotId) (r : ItemRecord), s.LanesOk → s.shadowAt e = some sh →
    let tenths := min r.amendPeriod 36000
    let newP := fun n => periodCells tenths (s.rate n)
    let fits := ∀ i l, s.lane i = some l → l.source = .item e →
      s.committed l.stream - l.load + laneLoad l.m (newP l.stream) ≤ s.ceiling l.stream
    (r.amendPeriod = 0 ∨ 3 < r.amendClass → s.amendItem e slot r = (.ignored, s)) ∧
    (r.amendPeriod ≠ 0 → r.amendClass ≤ 3 → ¬fits →
      (s.amendItem e slot r).1 = .refusedLoad ∧ (s.amendItem e slot r).2.sched = s.sched) ∧
    (r.amendPeriod ≠ 0 → r.amendClass ≤ 3 → fits →
      (s.amendItem e slot r).1 = .done ∧
      (s.amendItem e slot r).2.shadowAt e = some { sh with cls := r.amendClass, period := tenths } ∧
      ∀ i, (s.amendItem e slot r).2.lane i = (s.lane i).map fun l =>
        if l.source = .item e then
          { l with
            cls := r.amendClass, period := newP l.stream, load := laneLoad l.m (newP l.stream),
            countdown := min l.countdown (newP l.stream : Int) }
        else l) ∧
    (r.amendPeriod ≠ 0 → r.amendClass ≤ 3 → 36000 < r.amendPeriod →
      (s.amendItem e slot r).2.conds.flags = s.conds.flags ||| Condition.periodClamp.bit) ∧
    (r.amendPeriod ≠ 0 → r.amendClass ≤ 3 →
      let clamped := 36000 < r.amendPeriod ∨ ∃ i l, s.lane i = some l ∧ l.source = .item e ∧
        ((tenths * (s.unit l.stream).config.rate + 480) / 960 = 0 ∨
          65535 < (tenths * (s.unit l.stream).config.rate + 480) / 960)
      (clamped → (s.amendItem e slot r).2.conds = s.condsAfter (State.clampCauses true slot)) ∧
      (¬clamped → (s.amendItem e slot r).2.conds = s.conds))) ∧
  (∀ (env : Env) (s : State) (r : ItemRecord) (e : ShadowId) (sh : Shadow), s.control.part = .running →
    s.conds.haltPending = none → 0 < s.sweep.owed → env.berr = [] → Memory.wf s.mem = true →
    r = itemRecordOf ((s.seen env).area (itemOffset s.sweep.position) 48) →
    s.shadowOf s.sweep.position = some e → s.shadowAt e = some sh → sh.slot = s.sweep.position → r.state = 2 →
    r.request ≠ sh.taken → r.code ≠ 1 → sh.closing = none → (∃ i l, s.lane i = some l ∧ l.source = .item e) →
    let off := itemOffset s.sweep.position
    let done := if r.code = 2 then s.amendItem e s.sweep.position r else (.ignored, s)
    let expired := s.clock.origin ≠ none ∧ sh.expiry ≠ 0 ∧ sh.expiry.toNat ≤ s.clock.time.toNat
    ∀ sh1, done.2.shadowAt e = some sh1 →
    let sh2 := { sh1 with taken := r.request, outcome := done.1 }
    ∃ t, exec (.sweepVisit env) s = .next t ∧
      (t.shadowAt e ≠ none → t.conds = done.2.conds ∧ t.writePosition = s.writePosition ∧
        t.area (off + 29) 1 = [r.request] ∧ t.area (off + 31) 1 = [done.1.code] ∧
        t.WrittenBack s.sweep.position e sh2 ∧
        (s.seen env).keepsBut t [(off + 29, 1), (off + 31, 1), (off + 32, 16)]) ∧
      (¬expired → t.sched.lanes = done.2.sched.lanes ∧ t.sched.committed = done.2.sched.committed ∧
        t.shadowAt e = some sh2 ∧ ∀ f, f ≠ e → t.shadowAt f = s.shadowAt f) ∧
      (expired → done.2.ClosesItem t e { sh2 with closing := some .expired } .expired ∧
        (t.shadowAt e = none → (s.seen env).Retired t sh2 .expired ∧
          t.conds = done.2.condsAfter ((s.seen env).fullCauses .itemRetired))) ∧
      t = { s with
        control := { s.control with interrupt := t.control.interrupt }
        conds := { s.conds with flags := t.conds.flags, haltPending := t.conds.haltPending }
        writePosition := t.writePosition, sweep := t.sweep, sched := t.sched, mem := t.mem, bus := [] }) ∧
  ∀ (env : Env) (s : State) (r : ItemRecord) (e : ShadowId) (sh : Shadow) (i k : Nat), s.control.part = .running →
    s.conds.haltPending = none → 0 < s.sweep.owed → i = 1 ∨ i = 2 ∨ i = 3 →
    env.berr = List.replicate i none ++ [some k] → Memory.wf s.mem = true →
    r = itemRecordOf ((s.seen env).area (itemOffset s.sweep.position) 48) →
    s.shadowOf s.sweep.position = some e → s.shadowAt e = some sh → sh.slot = s.sweep.position → r.state = 2 →
    r.request ≠ sh.taken → r.code ≠ 1 → sh.closing = none → (∃ i l, s.lane i = some l ∧ l.source = .item e) →
    let off := itemOffset s.sweep.position
    let done := if r.code = 2 then s.amendItem e s.sweep.position r else (.ignored, s)
    let expired := s.clock.origin ≠ none ∧ sh.expiry ≠ 0 ∧ sh.expiry.toNat ≤ s.clock.time.toNat
    ∀ sh1, done.2.shadowAt e = some sh1 →
    let sh2 := { sh1 with taken := r.request, outcome := done.1 }
    ∃ u t, exec (.sweepVisit { env with berr := [] }) s = .next u ∧ exec (.sweepVisit env) s = .next t ∧
      (t.shadowAt e ≠ none → done.2.BoardBus t [] ∧ t.writePosition = s.writePosition ∧ t.control = s.control ∧
        (s.seen env).CutAt t
          [(off, []), (off + 29, [r.request]), (off + 31, [done.1.code]), (off + 32, u.area (off + 32) 16)] i k) ∧
      (i < 3 ∨ ¬expired → t.sched.lanes = done.2.sched.lanes ∧ t.sched.committed = done.2.sched.committed ∧
        t.shadowAt e = some sh2 ∧ ∀ f, f ≠ e → t.shadowAt f = s.shadowAt f) ∧
      (i = 3 → expired → done.2.ClosesItem t e { sh2 with closing := some .expired } .expired ∧
        (t.shadowAt e = none → (s.seen env).Retired t sh2 .expired ∧
          ∃ w, t.conds = done.2.condsAfter ((.boardBus, w) :: (s.seen env).fullCauses .itemRetired))) ∧
      t.noteSeen s.sweep.position = .none ∧
      t = { s with
        control := { s.control with interrupt := t.control.interrupt }
        conds := { s.conds with flags := t.conds.flags, haltPending := t.conds.haltPending }
        writePosition := t.writePosition, sweep := t.sweep, sched := t.sched, mem := t.mem, bus := [] }

/-! ## Periods, loads and divisors -/

/-- R65 and R66: P is the period in cells rounded half up and held within 1 to 65535, PERIOD_CLAMP exactly where it
had to be held; the initial countdown is the delay in cells, at most P. R67: a lane's load is m × 65536 / P rounded
up, between 2 and 524288 over the ranges of m and P; a stream's ceiling units are its percentage of 65536 rounded
down. R21 and R121: over the accepted ranges Ds + 1 is f_clk × 1000 / B and Df + 1 is f_clk × 1000 / (16 × R), rounded
half up, with Ds from 207 to 166666 and Df from 1 to 2603; and the test of the feed rate is that the actual rate is
off by more than 3 percent of R. -/
def Obligations.PeriodsAndLoads : Prop :=
  (∀ tenths rate : Nat,
    let cells := (tenths * rate + 480) / 960
    (2 * 960 * cells ≤ 2 * tenths * rate + 960 ∧ 2 * tenths * rate + 960 < 2 * 960 * (cells + 1)) ∧
    (cells = 0 → periodCells tenths rate = 1) ∧ (65535 < cells → periodCells tenths rate = 65535) ∧
    (1 ≤ cells → cells ≤ 65535 → periodCells tenths rate = cells) ∧
    (periodClamps tenths rate = true ↔ periodCells tenths rate ≠ cells) ∧
    ∀ delay, initialCountdown delay rate (periodCells tenths rate) =
      min ((delay * rate + 480) / 960) (periodCells tenths rate)) ∧
  ((∀ m p : Nat, 1 ≤ m → m ≤ 8 → 1 ≤ p → p ≤ 65535 →
    m * 65536 ≤ laneLoad m p * p ∧ laneLoad m p * p < m * 65536 + p ∧ 2 ≤ laneLoad m p ∧ laneLoad m p ≤ 524288) ∧
  (∀ percent : Nat, ceilingUnits percent * 100 ≤ percent * 65536 ∧
    percent * 65536 < (ceilingUnits percent + 1) * 100) ∧
  ceilingUnits 10 = 6553 ∧ ceilingUnits 90 = 58982 ∧ ceilingUnits 100 = 65536) ∧
  (∀ fclk rate : Nat, 1000 ≤ fclk → fclk ≤ 50000 → 300 ≤ rate → rate ≤ 4800 →
    let cycles := bitDivisorOf fclk rate + 1
    2 * cycles * rate ≤ 2 * (fclk * 1000) + rate ∧ 2 * (fclk * 1000) + rate < 2 * (cycles + 1) * rate ∧
    207 ≤ bitDivisorOf fclk rate ∧ bitDivisorOf fclk rate ≤ 166666) ∧
  (∀ fclk rate : Nat, 1000 ≤ fclk → fclk ≤ 50000 → 1200 ≤ rate → rate ≤ 38400 →
    let cycles := feedDivisorOf fclk rate + 1
    let actual : Rat := (fclk * 1000 : Nat) / (16 * cycles : Nat)
    2 * cycles * (16 * rate) ≤ 2 * (fclk * 1000) + 16 * rate ∧
    2 * (fclk * 1000) + 16 * rate < 2 * (cycles + 1) * (16 * rate) ∧
    1 ≤ feedDivisorOf fclk rate ∧ feedDivisorOf fclk rate ≤ 2603 ∧
    (feedErrorAbove3 fclk rate = true ↔ 3 / 100 < |(actual - rate) / rate|))

/-! ## Cells and text -/

/-- R1, R2, R4 and R183: a cell is 12 bytes; its header holds kind, last-part mark, part index, level and variant;
bytes 2 to 9 are the payload; and the last two are the check word of the ten before them, so that the check word of
all 12 bytes is 0. The check register starts at FFFFH and takes the bits most significant first: it shifts up by one,
and where the bit shifted out differs from the bit that enters, x^15, x^2 and 1 of the generator (8005H) are added.
R5, R7, R10 and R183: FILL, ALERT and CLOCK cells are repetitions of their own, index 0 with the mark, with the level
and the variant code of the moment, and their payloads hold: in FILL the network code, the variant codes of streams 0
to 3, FFH for one not enabled, the sibling mask and the clock state; in ALERT the number, origin and kind, level and
remaining hold of the CURRENT announcement, all 0 at level 0, the sibling mask, the depth of the stack and the length
of the waiting list; in CLOCK the day, the second of the day, the local offset, the origin and a zero byte. -/
def Obligations.CellLayoutAndCheck : Prop :=
  (checkWord [] = 0xFFFF ∧
    ∀ (bs : List Byte) (b : Byte), checkWord (bs ++ [b]) =
      (List.range 8).foldl
        (fun (r : Half) i => if r.getLsbD 15 = b.getLsbD (7 - i) then r <<< 1 else (r <<< 1) ^^^ 0x8005)
        (checkWord bs)) ∧
  (∀ c : AirCell, c.bytes.length = 12 ∧
    (byteAt c.bytes 0).extractLsb' 4 4 = c.kind.code ∧ (byteAt c.bytes 0).getLsbD 3 = c.part.last ∧
    (byteAt c.bytes 0).extractLsb' 0 3 = c.part.index ∧ (byteAt c.bytes 1).extractLsb' 5 3 = c.level ∧
    (byteAt c.bytes 1).extractLsb' 0 5 = c.variant ∧ (∀ i : Fin 8, byteAt c.bytes (2 + i.val) = c.payload[i]) ∧
    be16At c.bytes 10 = checkWord (c.bytes.take 10) ∧ checkWord c.bytes = 0) ∧
  ∀ (s : State) (n : StreamId),
    let cell := fun (c : AirCell) (kind : CellKind) =>
      c.kind = kind ∧ c.part.last = true ∧ c.part.index = 0 ∧ c.level = BitVec.ofNat 3 (s.level n) ∧
        c.variant = (s.unit n).config.variant
    let variant := fun m : StreamId => if s.enabled m then (s.unit m).config.variant.setWidth 8 else (0xFF : Byte)
    let state : Byte := match s.clock.origin with
      | none => 0
      | some .board => 1
      | some .feed => 2
    let time := s.stationTime.toNat
    ∃ siblings : Byte,
      (∀ m : StreamId, siblings.getLsbD m.val = true ↔ m ≠ n ∧ 0 < s.level m) ∧ siblings.toNat < 16 ∧
      (cell (s.fillCell n) .fill ∧ (s.fillCell n).payload.toList =
        be16 s.general.networkCode ++ [variant 0, variant 1, variant 2, variant 3, siblings, state]) ∧
      (cell (s.alertCell n) .alert ∧ (s.alertCell n).payload.toList.drop 5 =
          [siblings, BitVec.ofNat 8 (s.positions n).suspended.length, BitVec.ofNat 8 (s.positions n).waiting.length] ∧
        ((s.positions n).current = none → (s.alertCell n).payload.toList.take 5 = [0, 0, 0, 0, 0]) ∧
        ∀ p a, (s.positions n).current = some p → s.announcement p.entry = some a →
          byteAt (s.alertCell n).payload.toList 0 = a.number ∧
          (byteAt (s.alertCell n).payload.toList 1).getLsbD 7 = decide (a.origin = .feed) ∧
          (byteAt (s.alertCell n).payload.toList 1).extractLsb' 4 3 = 0 ∧
          (byteAt (s.alertCell n).payload.toList 1).extractLsb' 0 4 = a.kind ∧
          byteAt (s.alertCell n).payload.toList 2 = BitVec.ofNat 8 p.level ∧
          be16At (s.alertCell n).payload.toList 3 = BitVec.ofNat 16 (min a.hold 3600)) ∧
      cell (s.clockCell n) .clock ∧ (s.clockCell n).payload.toList =
        be16 (BitVec.ofNat 16 (time / 86400)) ++ [BitVec.ofNat 8 (time % 86400 / 65536),
          BitVec.ofNat 8 (time % 86400 / 256), BitVec.ofNat 8 (time % 86400), BitVec.ofInt 8 s.clock.offset, state, 0]

/-- R12: the air code of a host code is that of the lowest-numbered correction entry in use for it, and of the built-in
map when no entry in use names it. -/
def Obligations.TextConversion : Prop :=
  ∀ (cs : Vector Correction 8) (h : Byte),
    (∀ i : Fin 8, cs[i].host = h → 0x20 ≤ cs[i].air.toNat → cs[i].air.toNat ≤ 0xDF →
      (∀ j : Fin 8, j < i → ¬(cs[j].host = h ∧ 0x20 ≤ cs[j].air.toNat ∧ cs[j].air.toNat ≤ 0xDF)) →
      airCode cs h = some cs[i].air) ∧
    ((∀ j : Fin 8, ¬(cs[j].host = h ∧ 0x20 ≤ cs[j].air.toNat ∧ cs[j].air.toNat ≤ 0xDF)) →
      (0x20 ≤ h.toNat → h.toNat ≤ 0x7E → airCode cs h = some h) ∧
      (0xA0 ≤ h.toNat → airCode cs h = some (h - 0x20)) ∧
      (h.toNat < 0x20 ∨ (0x7F ≤ h.toNat ∧ h.toNat ≤ 0x9F) → airCode cs h = none))

/-- R6, R8, R11, R13 and R14: what a fetched repetition stages, in parts of its kind. A NAME is two parts of 16 codes,
cut at 16 with TEXT_TRUNC and padded with air code 20H (that the padding is not converted is the model's reading, log
19); a NOTICE is 1 + ceil((L − 6) / 8) parts, its fields and its text padded with 20H; a GENERIC repetition is ceil(L
/ 8) parts of the bytes as they are, padded with 00H, and a SIBLING one part of them; parts carry index 0 to m − 1
with the mark on the last alone; an unmapped code of a NAME or NOTICE is aired as 3FH and reported. -/
def Obligations.RepetitionContent : Prop :=
  ∀ (cs : Vector Correction 8) (kind : ItemKind) (length : Nat) (bs : List Byte), lengthOk kind length = true →
    bs.length = fetchLength kind length →
    let c := itemContent cs kind length bs
    c.parts.length = (match kind with
      | .name => 2
      | .notice => 1 + (length - 6 + 7) / 8
      | .sibling => 1
      | .generic => (length + 7) / 8) ∧
    (∀ p ∈ c.parts, p.kind = match kind with
      | .name => .name
      | .notice => .notice
      | .sibling => .sibling
      | .generic => .generic) ∧
    (∀ i p, c.parts[i]? = some p → p.part.index = BitVec.ofNat 3 i ∧
      (p.part.last = true ↔ i + 1 = c.parts.length)) ∧
    (kind = .name → (c.truncated = true ↔ 16 < length) ∧
      ∀ i, i < 16 → ∃ p, c.parts[i / 8]? = some p ∧
        p.payload.toList[i % 8]? = some (if i < bs.length then ((airCode cs (bs.getD i 0)).getD 0x3F) else 0x20)) ∧
    (kind = .generic → c.truncated = false ∧ c.substituted = false ∧
      ∀ i, i < 8 * c.parts.length → ∃ p, c.parts[i / 8]? = some p ∧ p.payload.toList[i % 8]? = some (bs.getD i 0)) ∧
    (kind = .sibling → ∃ p, c.parts = [p] ∧ p.payload.toList = bs) ∧
    (kind = .notice → ∃ p ps, c.parts = p :: ps ∧
      p.payload.toList = bs.take 6 ++ [BitVec.ofNat 8 (length - 6), 0] ∧
      ∀ i, i < 8 * ps.length → ∃ q, ps[i / 8]? = some q ∧ q.payload.toList[i % 8]? =
        some (if i < length - 6 then ((airCode cs (bs.getD (i + 6) 0)).getD 0x3F) else 0x20)) ∧
    (kind = .name ∨ kind = .notice → (c.substituted = true ↔
      ∃ h ∈ (if kind = .notice then bs.drop 6 else bs), airCode cs h = none))

/-! ## Slots and bits -/

/-- A slot that opens on a full buffer loads the buffered cell, asks the next decision, raises the cell count and the
interval counter and, while RUNNING, lowers every countdown of the stream by 1; without a formed cell it loads an
underrun FILL, asks no decision and causes UNDERRUN (R18, R20, R70, R113). From a slot opening on, every lane of the
stream may be selected, and no longer counts as fresh (R37); that one while HELD counts for this is the model's reading
of log 41. -/
def Obligations.SlotOpens : Prop :=
  ∀ (n : StreamId) (s : State), (s.unit n).output = .live → s.control.part = .running ∨ s.control.part = .held →
    (s.unit n).shifterReady = true →
    ∃ t, exec (.slotOpen n) s = .next t ∧
      (t.unit n).cellCount = (s.unit n).cellCount + 1 ∧
      (t.unit n).interval = min ((s.unit n).interval + 1) 64 ∧
      (∀ c, (s.unit n).buffer = .full c →
        t.unit n = { s.unit n with
          buffer := .forming, asked := true, cellCount := (t.unit n).cellCount, interval := (t.unit n).interval
          shifter := some {
            cell := c, sent := 0, source := (s.unit n).config.source, divisor := (s.unit n).divisor,
              stale := false } } ∧
        t.conds = s.conds) ∧
      ((∀ c, (s.unit n).buffer ≠ .full c) →
        t.unit n = { s.unit n with
          cellCount := (t.unit n).cellCount, interval := (t.unit n).interval
          shifter := some {
            cell := s.fillCell n, sent := 0, source := (s.unit n).config.source, divisor := (s.unit n).divisor,
            stale := false } } ∧
        t.conds.flags = s.conds.flags ||| Condition.underrun.bit ∧ t.conds.haltMask = s.conds.haltMask ∧
        t.conds.haltCause = s.conds.haltCause) ∧
      (∀ m, m ≠ n → t.unit m = s.unit m) ∧
      (s.control.part = .running → ∀ i, t.lane i = (s.lane i).map fun l =>
        if l.stream = n then { l with countdown := max (-65535) (l.countdown - 1), fresh := false } else l) ∧
      (s.control.part = .held → (∀ i, t.lane i = (s.lane i).map fun l =>
          if l.stream = n then { l with fresh := false } else l) ∧
        t.sched.shadow = s.sched.shadow ∧ t.sched.committed = s.sched.committed) ∧
      t = { s with units := t.units, conds := t.conds, sched := { s.sched with lanes := t.sched.lanes } }

/-- A bit time moves the shifter of an unfinished cell to the next bit, which SBOUT then shows, and does nothing without
one; at the 96th bit the cell has been sent (R1, R17).
A stream whose shifter has nothing left to send goes OFF while STOPPING, with SBOUT at 1, and a stream that is OFF gives
up the cell it has finished sending likewise; while a cell is unfinished, and while the part is RUNNING or HELD, a LIVE
stream stays as it is (R23, R175). The model's choices: the bit-clock phase is 0 then (log 43), and a LIVE stream with no
cell in its shifter goes OFF likewise (log 44). -/
def Obligations.BitsShiftUntilOff : Prop :=
  (∀ (n : StreamId) (s : State), ∃ t, exec (.bitTime n) s = .next t ∧ t = { s with units := t.units } ∧
    (∀ m, m ≠ n → t.unit m = s.unit m) ∧
    ((s.unit n).shifterReady = true → t = s) ∧
    ∀ sh, (s.unit n).shifter = some sh → sh.sent < 96 →
      t.unit n = { s.unit n with shifter := some { sh with sent := sh.sent + 1 } } ∧
      s.sbout n = some ((byteAt sh.cell.bytes (sh.sent / 8)).getLsbD (7 - sh.sent % 8)) ∧
      (sh.sent < 95 → t.sbout n =
        some ((byteAt sh.cell.bytes ((sh.sent + 1) / 8)).getLsbD (7 - (sh.sent + 1) % 8))) ∧
      (sh.sent = 95 → (t.unit n).shifterReady = true)) ∧
  (∀ (n : StreamId) (s : State),
    (s.control.part = .stopping ∨ (s.unit n).output = .off → (s.unit n).shifterReady = true →
      ∃ t, exec (.streamOff n) s = .next t ∧
        t.unit n = { s.unit n with output := .off, shifter := none, phase := 0 } ∧ t.sbout n = some true ∧
        (∀ m, m ≠ n → t.unit m = s.unit m) ∧ t = { s with units := t.units }) ∧
    ((s.unit n).shifterReady = false → exec (.streamOff n) s = .next s) ∧
    ((s.unit n).output = .live → s.control.part ≠ .stopping → exec (.streamOff n) s = .next s))

/-! ## The slot decision -/

/-- R71 and R72, the cases that start no lane: while RUNNING an owed ALERT goes before a staged part, a staged part
before an owed CLOCK, and with nothing else to send, no lane being eligible or every eligible one still fresh (R37), a
FILL is formed; while HELD a stream with staged parts forms an
owed ALERT or the next part, and any other forms a FILL. A staged part takes the level and the variant of the moment,
and leaves its lane a part less to form; after the last one the lane is idle, or, when it is closing, freed, and an
item that has no lane left is retired (R2, R10, R63, R80, R114, R150). -/
def Obligations.DecisionCases : Prop :=
  ∀ (n : StreamId) (env : Env) (s : State), (s.unit n).output = .live → (s.unit n).asked = true →
    let alert := { s.unit n with
      asked := false, buffer := .full (s.alertCell n), burst := (s.unit n).burst - 1, interval := 0 }
    let clock := { s.unit n with
      asked := false, buffer := .full (s.clockCell n), lastMinute := some (s.stationTime.toNat / 60) }
    let fill := { s.unit n with asked := false, buffer := .full (s.fillCell n) }
    let owed := 0 < (s.unit n).burst ∨ (0 < s.level n ∧ (s.unit n).config.interval ≤ (s.unit n).interval)
    let clockDue := s.clock.origin ≠ none ∧ (s.unit n).lastMinute ≠ some (s.stationTime.toNat / 60)
    let answers := fun u : StreamUnit =>
      exec (.slotDecision n env) s = .next { (s.seen env).setUnit n u with bus := [] }
    (s.control.part = .running →
      (owed → answers alert) ∧
      (¬owed → (s.unit n).staging = [] → clockDue → answers clock) ∧
      (¬owed → (s.unit n).staging = [] → ¬clockDue →
        (∀ i l, s.lane i = some l → s.eligible n l = false ∨ l.fresh = true) → answers fill)) ∧
    (s.control.part = .held →
      ((s.unit n).staging = [] → answers fill) ∧ ((s.unit n).staging ≠ [] → owed → answers alert)) ∧
    (s.control.part = .running ∨ s.control.part = .held → ¬owed → ∀ p ps, (s.unit n).staging = p :: ps →
      ∃ t, exec (.slotDecision n env) s = .next t ∧
        t.unit n = { s.unit n with
          asked := false, staging := ps
          buffer := .full {
            kind := p.kind, part := p.part, level := BitVec.ofNat 3 (s.level n), variant := (s.unit n).config.variant,
            payload := p.payload } } ∧
        (∀ m, m ≠ n → t.unit m = s.unit m) ∧
        ((∀ i l, s.lane i = some l → l.stream = n → l.repetition = .idle) →
          t = { s.seen env with units := t.units, bus := [] }) ∧
        ∀ i l k, s.lane i = some l → l.stream = n → l.repetition = .parts k →
          (∀ j m, s.lane j = some m → m.stream = n → m.repetition ≠ .idle → j = i) →
          (2 ≤ k ∨ l.closing = none →
            t.lane i = some { l with repetition := if 2 ≤ k then .parts (k - 1) else .idle } ∧
            (∀ j, j ≠ i → t.lane j = s.lane j) ∧
            t = { s.seen env with units := t.units, sched := { s.sched with lanes := t.sched.lanes }, bus := [] }) ∧
          (k ≤ 1 → ∀ why, l.closing = some why → (s.seen env).Freed t i l ∧
            ∀ e sh, l.source = .item e → s.shadowAt e = some sh →
              (∀ j m, j ≠ i → s.lane j = some m → m.source ≠ l.source) → env.berr = [] → Memory.wf s.mem = true →
              (s.seen env).Retired t sh why.retireReason))

/-- R37, R73 and R75: the lane selected on a stream is eligible, and a slot of the stream has opened since it was
created; no other such lane of the stream has a lower class, or the same class and a lower countdown; and of lanes with
both the same an item lane goes before a feed-notice lane, item lanes go in the order of their slots and feed-notice
lanes in that of their store entries; a lane is selected whenever there is such a lane. That a feed notice's new lane
waits for the next slot opening, as R37 says of an item's, is the model's reading of log 41. -/
def Obligations.SelectionOrder : Prop :=
  ∀ (s : State) (n : StreamId),
    (∀ i l, s.selectLane n = some (i, l) → s.lane i = some l ∧ s.eligible n l = true ∧ l.fresh = false ∧
      ∀ j k, s.lane j = some k → s.eligible n k = true → k.fresh = false →
        l.cls < k.cls ∨ (l.cls = k.cls ∧ (l.countdown < k.countdown ∨ (l.countdown = k.countdown ∧
          (∀ x f, l.source = .notice x → k.source ≠ .item f) ∧
          (∀ e f sh th, l.source = .item e → k.source = .item f → s.shadowAt e = some sh → s.shadowAt f = some th →
            sh.slot.toNat ≤ th.slot.toNat) ∧
          (∀ x y : StoreId, l.source = .notice x → k.source = .notice y → x ≤ y))))) ∧
    (s.selectLane n = none ↔ ∀ i l, s.lane i = some l → s.eligible n l = false ∨ l.fresh = true) ∧
    ∀ l, s.eligible n l = true ↔
      l.stream = n ∧ l.countdown ≤ 0 ∧ l.closing = none ∧ l.repetition = .idle ∧ s.control.part = .running ∧
      (s.notBeforeOf l.source = 0 ∨
        (s.clock.origin ≠ none ∧ (s.notBeforeOf l.source).toNat ≤ s.clock.time.toNat)) ∧
      ¬(l.cls = 3 ∧ (s.unit n).config.quietThreshold ≠ 0 ∧ (s.unit n).config.quietThreshold ≤ s.level n)

/-- A selection raises the countdown by P, or sets it to 0 with one slip when that is below 0, and puts the lane in
its repetition. For an item to be fetched whose range is contained the fetch starts, with the values kept for a
precise fault, and nothing is formed yet; a range not contained is a FETCH_WINDOW fault at once, with a FILL, an idle
lane, and either one slip more or, when it halts, the values of before the selection. A FEED_NAME item and a feed
notice have their content in hand: the start is complete, part 0 is formed and the others are staged (R9, R56, R76 to
R78, R82 to R84). -/
def Obligations.SelectionStartsFetch : Prop :=
  ∀ (n : StreamId) (env : Env) (s : State) (i : LaneId) (l : Lane),
    (s.unit n).output = .live → (s.unit n).asked = true → s.control.part = .running → (s.unit n).burst = 0 →
    (s.level n = 0 ∨ (s.unit n).interval < (s.unit n).config.interval) → (s.unit n).staging = [] →
    (s.clock.origin = none ∨ (s.unit n).lastMinute = some (s.stationTime.toNat / 60)) →
    s.selectLane n = some (i, l) →
    let countdown := max (l.countdown + l.period) 0
    let slip := if l.countdown + l.period < 0 then 1 else 0
    let air := min (l.air + 1) 0xFFFFFFFF
    let cell := fun p : StagedPart => ({
      kind := p.kind, part := p.part, level := BitVec.ofNat 3 (s.level n), variant := (s.unit n).config.variant,
      payload := p.payload } : AirCell)
    (∀ e sh, l.source = .item e → s.shadowAt e = some sh → sh.feedName = false →
      (containingWindow s.port.windows sh.desk sh.address.toNat (sh.address.toNat + sh.length - 1) ≠ none →
        ∃ t, exec (.slotDecision n env) s = .next t ∧
          t.lane i = some { l with countdown := countdown, repetition := .fetching } ∧
          (∀ j, j ≠ i → t.lane j = s.lane j) ∧
          t.shadowAt e = some { sh with
            slipTotal := if l.countdown + l.period < 0 then min (sh.slipTotal + 1) 0xFFFFFFFF else sh.slipTotal } ∧
          (∀ f, f ≠ e → t.shadowAt f = s.shadowAt f) ∧
          t.unit n = { s.unit n with
            asked := false
            fetch := some { lane := i, countdown := l.countdown, air := l.air, slips := sh.slipTotal } } ∧
          t = { s.seen env with units := t.units, sched := t.sched, bus := [] }) ∧
      (containingWindow s.port.windows sh.desk sh.address.toNat (sh.address.toNat + sh.length - 1) = none →
        ∃ t, exec (.slotDecision n env) s = .next t ∧
          t.unit n = { s.unit n with asked := false, fetch := none, buffer := .full (s.fillCell n) } ∧
          t.conds.flags = s.conds.flags ||| Condition.fetchWindow.bit ∧
          (Condition.fetchWindow.inMask s.conds.haltMask = false ∨ s.conds.haltPending ≠ none →
            t.lane i = some { l with countdown := countdown, repetition := .idle } ∧
            t.shadowAt e = some { sh with slipTotal := min (sh.slipTotal + slip + 1) 0xFFFFFFFF } ∧
            t.conds.haltPending = s.conds.haltPending) ∧
          (Condition.fetchWindow.inMask s.conds.haltMask = true → s.conds.haltPending = none →
            t.lane i = some { l with repetition := .idle } ∧ t.shadowAt e = some sh ∧
            t.conds.haltPending = some {
              cause := .fetchWindow, time := s.stationTime, cells := (s.unit n).cellCount
              place := { stream := some n, slot := sh.slot, lane := BitVec.ofNat 8 i.val, address := sh.address } }) ∧
          (∀ j, j ≠ i → t.lane j = s.lane j) ∧ (∀ f, f ≠ e → t.shadowAt f = s.shadowAt f) ∧
          t = { s.seen env with units := t.units, sched := t.sched, conds := t.conds, bus := [] })) ∧
    (∀ e sh, l.source = .item e → s.shadowAt e = some sh → sh.feedName = true →
      let code := fun k : Nat => (airCode s.corrections ((s.feedName n).codes.toList.getD k 0)).getD 0x3F
      let part := fun k : Nat => ({
        kind := .name, part := { last := k == 1, index := BitVec.ofNat 3 k }
        payload := Vector.ofFn fun x : Fin 8 => code (8 * k + x.val) } : StagedPart)
      ∃ t, exec (.slotDecision n env) s = .next t ∧
        t.unit n = { s.unit n with
          asked := false, fetch := none, staging := [part 1], buffer := .full (cell (part 0)) } ∧
        t.lane i = some { l with
          countdown := countdown, air := air, repetition := .parts 1
          closing := if sh.limit ≠ 0 ∧ air = sh.limit then some .countDone else none } ∧
        (∀ j, j ≠ i → t.lane j = s.lane j) ∧
        t.shadowAt e = some { sh with
          airTotal := min (sh.airTotal + 1) 0xFFFFFFFF, lastAired := s.stationTime
          slipTotal := if l.countdown + l.period < 0 then min (sh.slipTotal + 1) 0xFFFFFFFF else sh.slipTotal } ∧
        (∀ f, f ≠ e → t.shadowAt f = s.shadowAt f) ∧
        ((∃ h ∈ (s.feedName n).codes.toList, airCode s.corrections h = none) →
          t.conds.flags = s.conds.flags ||| Condition.textSubst.bit) ∧
        ((∀ h ∈ (s.feedName n).codes.toList, airCode s.corrections h ≠ none) → t.conds = s.conds) ∧
        t = { s.seen env with units := t.units, sched := t.sched, conds := t.conds, bus := [] }) ∧
    (∀ x h, l.source = .notice x → s.notice x = .held h →
      ∃ (p : StagedPart) (ps : List StagedPart), (∀ q ∈ p :: ps, q.kind = .notice) ∧
        ps.length = (h.text.length + 7) / 8 ∧
        (∀ (k : Nat) (q : StagedPart), (p :: ps)[k]? = some q →
          q.part = { last := k == ps.length, index := BitVec.ofNat 3 k }) ∧
        p.payload.toList = be16 h.location ++ be16 h.event ++ [h.extent, h.flags, BitVec.ofNat 8 h.text.length, 1] ∧
        (∀ k, k < 8 * ps.length → ∃ q, ps[k / 8]? = some q ∧ q.payload.toList[k % 8]? =
          some (if k < h.text.length then (airCode s.corrections (h.text.getD k 0)).getD 0x3F else 0x20)) ∧
        ∃ t, exec (.slotDecision n env) s = .next t ∧
          t.unit n = { s.unit n with asked := false, fetch := none, staging := ps, buffer := .full (cell p) } ∧
          t.lane i = some { l with
            countdown := countdown, air := air, repetition := if ps = [] then .idle else .parts ps.length } ∧
          (∀ j, j ≠ i → t.lane j = s.lane j) ∧ t.sched.shadow = s.sched.shadow ∧
          ((∃ c ∈ h.text, airCode s.corrections c = none) →
            t.conds.flags = s.conds.flags ||| Condition.textSubst.bit) ∧
          ((∀ c ∈ h.text, airCode s.corrections c ≠ none) → t.conds = s.conds) ∧
          t = { s.seen env with units := t.units, sched := t.sched, conds := t.conds, bus := [] })

/-! ## The end of a fetch -/

/-- A fetch that ends well completes the start, closing or not: the air count of the lane and the air total of the
item rise by 1, the last-aired time is the station time, part 0 is formed and the other parts are staged; a lane whose
repeat limit is reached is closing with COUNT_DONE. TEXT_TRUNC is caused exactly by a NAME of more than 16 codes, and
TEXT_SUBST exactly by a code used of a NAME, or of the text of a NOTICE, that has no air code, TEXT_TRUNC first; each
sets its COND bit, and the first whose halt bit is set halts a RUNNING part with the place of the start (R13, R14,
R158). With parts left the lane is in its repetition; a repetition of one
part leaves it idle, or, when it is closing, freed, and an item that has no lane left is retired with the counts just
raised (R63, R78, R80, R82). -/
def Obligations.FetchEndCompletesStart : Prop :=
  ∀ (n : StreamId) (env : Env) (s : State) (f : Fetch) (l : Lane) (e : ShadowId) (sh : Shadow) (p : StagedPart)
    (ps : List StagedPart),
    s.control.part = .running ∨ s.control.part = .held → (s.unit n).fetch = some f → s.lane f.lane = some l →
    l.source = .item e → s.shadowAt e = some sh → env.berr = [] →
    (itemContent s.corrections sh.kind sh.length
      (memReadRun (s.seen env).mem sh.address (fetchLength sh.kind sh.length))).parts = p :: ps →
    let air := min (l.air + 1) 0xFFFFFFFF
    let l1 : Lane := { l with
      air := air, closing := if sh.limit ≠ 0 ∧ air = sh.limit then some (l.closing.getD .countDone) else l.closing }
    let sh1 : Shadow := { sh with airTotal := min (sh.airTotal + 1) 0xFFFFFFFF, lastAired := s.stationTime }
    let u := ((s.seen env).setLane f.lane (some l1)).setShadow e (some sh1)
    let bytes := memReadRun (s.seen env).mem sh.address (fetchLength sh.kind sh.length)
    let truncated := sh.kind = .name ∧ 16 < sh.length
    let substituted := (sh.kind = .name ∧ ∃ h ∈ bytes, airCode s.corrections h = none) ∨
      (sh.kind = .notice ∧ ∃ h ∈ bytes.drop 6, airCode s.corrections h = none)
    let flags := s.conds.flags ||| (if truncated then Condition.textTrunc.bit else 0)
      ||| (if substituted then Condition.textSubst.bit else 0)
    let halts := fun c : Condition =>
      s.control.part = .running ∧ s.conds.haltPending = none ∧ c.inMask s.conds.haltMask = true
    let capture := fun c : Condition => some ({
      cause := c, time := s.stationTime, cells := (s.unit n).cellCount
      place := {
        stream := some n, slot := sh.slot, lane := BitVec.ofNat 8 f.lane.val
        address := if sh.feedName then 0 else sh.address } } : Capture)
    let last := ∀ j k, j ≠ f.lane → s.lane j = some k → k.source ≠ l.source
    ∃ t, exec (.fetchEnd n env) s = .next t ∧
      t.unit n = { s.unit n with
        fetch := none, staging := ps
        buffer := .full {
          kind := p.kind, part := p.part, level := BitVec.ofNat 3 (s.level n), variant := (s.unit n).config.variant,
          payload := p.payload } } ∧
      (∀ m, m ≠ n → t.unit m = s.unit m) ∧
      (truncated → halts .textTrunc → t.conds.haltPending = capture .textTrunc) ∧
      (substituted → halts .textSubst → ¬(truncated ∧ halts .textTrunc) →
        t.conds.haltPending = capture .textSubst) ∧
      (ps ≠ [] ∨ l1.closing = none →
        t.lane f.lane = some { l1 with repetition := if ps = [] then .idle else .parts ps.length } ∧
        (∀ j, j ≠ f.lane → t.lane j = s.lane j) ∧ t.sched.shadow = u.sched.shadow ∧
        t.sched.committed = s.sched.committed ∧ t.mem = (s.seen env).mem ∧
        (¬(truncated ∧ halts .textTrunc) → ¬(substituted ∧ halts .textSubst) →
          t.conds.haltPending = s.conds.haltPending) ∧
        t = { s with
          units := t.units, sched := t.sched
          conds := { s.conds with flags := flags, haltPending := t.conds.haltPending }, mem := t.mem, bus := [] }) ∧
      (ps = [] → ∀ why, l1.closing = some why → u.Freed t f.lane l1 ∧
        (last → Memory.wf s.mem = true → u.Retired t sh1 why.retireReason) ∧
        (last → (s.seen env).full → t.conds.flags = flags ||| Condition.logFull.bit) ∧
        (¬last ∨ ¬(s.seen env).full → t.conds.flags = flags) ∧
        t = { s with
          control := { s.control with interrupt := t.control.interrupt }
          conds := { s.conds with flags := t.conds.flags, haltPending := t.conds.haltPending }
          writePosition := t.writePosition, units := t.units, sched := t.sched, mem := t.mem, bus := [] })

/-- A fetch that meets BERR forms a FILL, stages nothing and leaves the lane idle, or, when it was closed meanwhile,
freed, and an item that has no lane left is retired. With the halt bit of FETCH_BUS set while RUNNING and no halt
pending the lane's countdown, its air count and the slip total return to the values kept at the selection and the halt
is pending with the place of the start (R84, R158). With the bit clear, while HELD, or with another halt pending the
repetition is skipped: the countdown stays as the selection left it, one slip is counted, and the condition sets its
COND bit alone (R83, R85). -/
def Obligations.FetchBusErrorSkipsOrRestores : Prop :=
  ∀ (n : StreamId) (env : Env) (s : State) (f : Fetch) (l : Lane) (e : ShadowId) (sh : Shadow) (k : Nat)
    (rest : List (Option Nat)),
    s.control.part = .running ∨ s.control.part = .held → (s.unit n).fetch = some f → s.lane f.lane = some l →
    l.source = .item e → s.shadowAt e = some sh → env.berr = some k :: rest →
    let halts := s.control.part = .running ∧ s.conds.haltPending = none ∧
      Condition.fetchBus.inMask s.conds.haltMask = true
    let l1 := if halts then { l with countdown := f.countdown, air := f.air } else l
    let sh1 := { sh with slipTotal := if halts then f.slips else min (sh.slipTotal + 1) 0xFFFFFFFF }
    let u := ((s.seen env).setLane f.lane (some l1)).setShadow e (some sh1)
    ∃ t, exec (.fetchEnd n env) s = .next t ∧
      t.unit n = { s.unit n with fetch := none, buffer := .full (s.fillCell n) } ∧
      (∀ m, m ≠ n → t.unit m = s.unit m) ∧
      t.conds.flags.getLsbD (Condition.fetchBus.code - 1) = true ∧
      (halts → t.conds.haltPending = some {
        cause := .fetchBus, time := s.stationTime, cells := (s.unit n).cellCount
        place := {
          stream := some n, slot := sh.slot, lane := BitVec.ofNat 8 f.lane.val, address := sh.address } }) ∧
      (s.control.part = .held ∨ s.conds.haltPending ≠ none → t.conds.haltPending = s.conds.haltPending) ∧
      (l.closing = none →
        t.lane f.lane = some { l1 with repetition := .idle } ∧ t.shadowAt e = some sh1 ∧
        (∀ j, j ≠ f.lane → t.lane j = s.lane j) ∧ (∀ d, d ≠ e → t.shadowAt d = s.shadowAt d) ∧
        t.conds.flags = s.conds.flags ||| Condition.fetchBus.bit ∧
        (¬halts → t.conds.haltPending = s.conds.haltPending) ∧ t.mem = (s.seen env).mem ∧
        t = { s with units := t.units, sched := t.sched, conds := t.conds, mem := t.mem, bus := [] }) ∧
      (∀ why, l.closing = some why → u.Freed t f.lane l1 ∧
        (rest = [] → (∀ j x, j ≠ f.lane → s.lane j = some x → x.source ≠ l.source) → Memory.wf s.mem = true →
          u.Retired t sh1 why.retireReason) ∧
        t = { s with
          control := { s.control with interrupt := t.control.interrupt }
          conds := { s.conds with flags := t.conds.flags, haltPending := t.conds.haltPending }
          writePosition := t.writePosition, units := t.units, sched := t.sched, mem := t.mem, bus := [] })

/-! ## Announcements -/

/-- R97: what a stream does with an announcement offered to it at level L, with C the stream's level. R92: a new
position takes the arrival counter's number and the counter rises by 1; where it would pass FFFFFFFFH the positions
held take 0, 1, 2 and onward in their arrival order, places, levels and announcements as they were, and the counter is
one above. -/
def Obligations.OfferByLevel : Prop :=
  ∀ (a : AnnStream) (e : AnnId) (level : Nat), a.Ok → 1 ≤ level → level ≤ 7 →
    let p : Position := { entry := e, level := level, arrival := a.arrivals }
    let renumbered := fun (b : AnnStream) (x : Position) =>
      { x with arrival := (b.all.filter fun y => decide (y.arrival < x.arrival)).length }
    let counted := fun b : AnnStream =>
      if a.arrivals < 0xFFFFFFFF then { b with arrivals := a.arrivals + 1 }
      else ({
        current := b.current.map (renumbered b), suspended := b.suspended.map (renumbered b)
        waiting := b.waiting.map (renumbered b), arrivals := b.all.length } : AnnStream)
    (a.level = 0 → a.offer e level = (.current none, counted { a with current := some p })) ∧
    (∀ c, a.current = some c → c.level < level → a.offer e level =
      (.current (some c), counted { a with current := some p, suspended := c :: a.suspended })) ∧
    (a.level ≠ 0 → level ≤ a.level → a.waiting.length < 4 →
      ∃ xs ys, a.waiting = xs ++ ys ∧ (∀ x ∈ xs, level ≤ x.level) ∧ (∀ y ∈ ys, y.level < level) ∧
        a.offer e level = (.waiting none, counted { a with waiting := xs ++ p :: ys })) ∧
    (a.level ≠ 0 → level ≤ a.level → a.waiting.length = 4 → (∃ w ∈ a.waiting, w.level < level) →
      ∃ w ∈ a.waiting, (∀ x ∈ a.waiting, w.level < x.level ∨ (w.level = x.level ∧ x.arrival ≤ w.arrival)) ∧
        ∃ xs ys, a.waiting.erase w = xs ++ ys ∧ (∀ x ∈ xs, level ≤ x.level) ∧ (∀ y ∈ ys, y.level < level) ∧
          a.offer e level = (.waiting (some w), counted { a with waiting := xs ++ p :: ys })) ∧
    (a.level ≠ 0 → level ≤ a.level → a.waiting.length = 4 → (∀ w ∈ a.waiting, level ≤ w.level) →
      a.offer e level = (.refused, a)) ∧
    (a.Ordered → 0xFFFFFFFF ≤ a.arrivals → (a.offer e level).1 ≠ .refused →
      let b := (a.offer e level).2
      (b.all.map Position.arrival).Perm (List.range b.all.length) ∧ b.arrivals = b.all.length)

/-- R102: how a stream whose CURRENT entry has gone resumes, by the top of its stack and the head of its waiting list.
-/
def Obligations.ResumptionTable : Prop :=
  ∀ (a : AnnStream),
    (a.suspended = [] → a.waiting = [] → a.resume.1 = none ∧ a.resume.2.level = 0) ∧
    (∀ w ws, a.suspended = [] → a.waiting = w :: ws →
      a.resume = (some .promote, { a with current := some w, waiting := ws })) ∧
    (∀ t ts, a.suspended = t :: ts → a.waiting = [] →
      a.resume = (some .resume, { a with current := some t, suspended := ts })) ∧
    (∀ t ts w ws, a.suspended = t :: ts → a.waiting = w :: ws →
      (t.level < w.level → a.resume = (some .promote, { a with current := some w, waiting := ws })) ∧
      (w.level ≤ t.level → a.resume = (some .resume, { a with current := some t, suspended := ts })))

/-- A board BEGIN with good values, no duplicate, a free entry and every one of its streams at level 0 is answered
BEGUN: it takes the lowest-numbered free entry and is CURRENT at its level on exactly its enabled streams, whose ALERT
bursts are set; the other streams keep their positions and their units (R94, R95, R97, R113).
On streams idle or not, each stream does what an offer at the BEGIN's level does. The outcome is BEGUN when it is above
the level of one of them, QUEUED when it is above none and some stream has room or a lower waiting entry, and
REFUSED_STREAMS otherwise, when the entry is free again. The entry's mask holds the streams that took it. An
announcement displaced on a stream loses that stream, and one left with none ends; every other keeps its entry (R94,
R97, R100). The records, with no BERR to come, are those of the outcome (R116). -/
def Obligations.BoardBeginOnIdleAndBusyStreams : Prop :=
  (∀ (r : RequestId) (q : AnnRequest) (s : State), s.control.part = .running → q.number ≠ 0 → q.level ≠ 0 →
    q.mask &&& s.enabledMask ≠ 0 → s.findAnnouncement .board q.number = none → s.freeAnnouncement ≠ none →
    (∀ n : StreamId, (q.mask &&& s.enabledMask).getLsbD n.val = true →
      (s.positions n).current = none ∧ (s.positions n).arrivals < 0xFFFFFFFF) →
    ∃ e, s.freeAnnouncement = some e ∧ (s.boardBegin r q).1 = .begun ∧
      (s.boardBegin r q).2.announcement e = some {
        origin := .board, number := q.number, kind := q.kind, level := min q.level 7
        duration := if q.duration = 0 then s.general.defaultHold else min q.duration 3600
        hold := if q.duration = 0 then s.general.defaultHold else min q.duration 3600
        mask := q.mask &&& s.enabledMask, beginTime := s.stationTime } ∧
      (∀ f, f ≠ e → (s.boardBegin r q).2.announcement f = s.announcement f) ∧
      (∀ n : StreamId, (q.mask &&& s.enabledMask).getLsbD n.val = true →
        ((s.boardBegin r q).2.positions n).current =
          some { entry := e, level := min q.level 7, arrival := (s.positions n).arrivals } ∧
        (s.boardBegin r q).2.unit n = { s.unit n with burst := (s.unit n).config.burst }) ∧
      (∀ n : StreamId, (q.mask &&& s.enabledMask).getLsbD n.val = false →
        (s.boardBegin r q).2.positions n = s.positions n ∧ (s.boardBegin r q).2.unit n = s.unit n) ∧
      ((7 < q.level ∨ 3600 < q.duration) →
        (s.boardBegin r q).2.conds.flags.getLsbD (Condition.valueClamp.code - 1) = true)) ∧
  ∀ (r : RequestId) (q : AnnRequest) (s : State) (e : AnnId), s.control.part = .running → q.number ≠ 0 → q.level ≠ 0 →
    q.mask &&& s.enabledMask ≠ 0 → s.findAnnouncement .board q.number = none → s.freeAnnouncement = some e →
    s.PositionsOk →
    let duration := if q.duration = 0 then s.general.defaultHold else min q.duration 3600
    let a : Announcement := {
      origin := .board, number := q.number, kind := q.kind, level := min q.level 7, duration := duration
      hold := duration, mask := q.mask &&& s.enabledMask, beginTime := s.stationTime }
    let on := fun n : StreamId => a.mask.getLsbD n.val = true
    let outcome := (s.boardBegin r q).1
    let t := (s.boardBegin r q).2
    s.Begun t e a (fun _ => a.level) ∧
    ((∃ n, on n ∧ s.level n < a.level) → outcome = .begun) ∧
    ((∀ n, on n → a.level ≤ s.level n) → (∃ n, on n ∧ s.takesOffer n a.level) → outcome = .queued) ∧
    ((∀ n, on n → ¬s.takesOffer n a.level) → outcome = .refusedStreams) ∧
    (s.bus = [] → Memory.wf s.mem = true → s.Logged t s.stationTime
      (if outcome = .refusedStreams then [State.refusedRecord 7 q.level .board q.number]
        else s.beginRecords t e a fun _ => a.level))

/-- An announcement poll with no halt bit set and no BERR takes every new request: each record's last-taken number
becomes the request number read, and the taken-number byte of each new request shows it. A record with an answer owed is
given that answer in full, whatever it then holds, and no other use is made of it: its last-taken number stays and its
op is not carried out. Nothing is owed afterwards (R106, R107, R109). An answer whose write meets BERR, said here of a
first answer owed and of the first new request when it appends no record, causes BOARD_BUS and is owed; the number stays
taken, and the records after it wait (R109, R110). When the first record that the first new request appends meets BERR
the action stands, and the answer, a write-back to follow it, is not made (R26, R156): it is owed, with the number taken,
and the records after it wait (DEDUCED, log 13; that further records are attempted is log 29). A read burst that meets BERR causes BOARD_BUS, and no record is taken
at that poll (R109, R157). A new request that is the only new one is carried out by its op, and
its outcome stands in byte 3 of its record: a BEGIN refused as BAD or for want of a table entry changes no announcement;
a renewal gives the hold and the duration of the request and moves nothing; another BEGIN is what boardBegin does,
BEGUN, QUEUED or REFUSED_STREAMS by the levels and the room of its streams; an END ends the announcement it names,
END_ALL every board announcement; any other op is BAD. Its records are ALERT_REFUSED with the outcome, level and
number as read, those of a BEGIN taken, those of an ending with END or END_ALL, or none (R94 to R100, R103, R104,
R108, R116). What is said of answers owed, of BERR and of the one new request holds where no expiry is due;
ExpiredHoldsEnd says what comes first where one is (R105, log 10). That a poll is due is the model's flag of log 8. -/
def Obligations.PollTakesEveryRequest : Prop :=
  (∀ (env : Env) (s : State) (bs : List Byte), s.control.part = .running → s.unmasked → s.time.annDue = true →
    env.berr = [] → Memory.wf s.mem = true → bs = (s.seen env).area 0x0140 128 →
    ∃ t, exec (.announcementPoll env) s = .next t ∧ t.time = { s.time with annDue := false } ∧
      ∀ r : RequestId, t.ann.owed[r] = none ∧
        (∀ o, s.ann.owed[r] = some o → t.ann.taken[r] = s.ann.taken[r] ∧
          t.area (0x0140 + 16 * r.val + 1) 1 = [o.number] ∧ t.area (0x0140 + 16 * r.val + 3) 1 = [o.outcome.code]) ∧
        (s.ann.owed[r] = none → t.ann.taken[r] = byteAt bs (16 * r.val) ∧
          (byteAt bs (16 * r.val) ≠ s.ann.taken[r] →
            t.area (0x0140 + 16 * r.val + 1) 1 = [byteAt bs (16 * r.val)]) ∧
          (byteAt bs (16 * r.val) = s.ann.taken[r] → t.area (0x0140 + 16 * r.val) 16 =
            (s.seen env).area (0x0140 + 16 * r.val) 16))) ∧
  (∀ (env : Env) (s : State), s.control.part = .running → s.conds.haltPending = none → s.time.annDue = true →
    (∀ e, s.holdOver e = false) → env.berr = [] → (∀ r : RequestId, s.ann.owed[r] ≠ none) →
    ∃ t, exec (.announcementPoll env) s = .next t ∧
      t = { s with
        time := { s.time with annDue := false }, ann := { s.ann with owed := .replicate 8 none }, mem := t.mem
        bus := [] }) ∧
  (∀ (env : Env) (s : State) (k : Nat) (rest : List (Option Nat)), s.control.part = .running →
    s.conds.haltPending = none → s.time.annDue = true → (∀ e, s.holdOver e = false) → env.berr = some k :: rest →
    ∃ t, exec (.announcementPoll env) s = .next t ∧ s.BoardBus t [] ∧
      t = { s.seen env with time := { s.time with annDue := false }, conds := t.conds, bus := [] }) ∧
  (∀ (env : Env) (s : State) (bs : List Byte) (r : RequestId) (i k : Nat), s.control.part = .running →
    s.conds.haltPending = none → s.time.annDue = true → (∀ e, s.holdOver e = false) → (i = 1 ∨ i = 2) →
    env.berr = List.replicate i none ++ [some k] → bs = (s.seen env).area 0x0140 128 →
    (∀ x : RequestId, x < r → s.ann.owed[x] = none ∧ byteAt bs (16 * x.val) = s.ann.taken[x]) →
    let q := annRequestAt bs r
    let found := s.findAnnouncement .board q.number
    let bare := (q.op = 2 ∧ found = none) ∨ (q.op ≠ 1 ∧ q.op ≠ 2 ∧ q.op ≠ 3)
    (s.ann.owed[r] ≠ none ∨ (byteAt bs (16 * r.val) ≠ s.ann.taken[r] ∧ bare)) →
    ∃ t, exec (.announcementPoll env) s = .next t ∧ t.conds.flags = s.conds.flags ||| Condition.boardBus.bit ∧
      (∃ c, t.conds.haltPending = some c ∧ c.cause = .boardBus) ∧
      t.ann.table = s.ann.table ∧ t.ann.streams = s.ann.streams ∧
      (s.ann.owed[r] ≠ none → t.ann.owed[r] = s.ann.owed[r] ∧ t.ann.taken[r] = s.ann.taken[r]) ∧
      (s.ann.owed[r] = none → t.ann.taken[r] = byteAt bs (16 * r.val) ∧
        t.ann.owed[r] = some {
          outcome := if q.op = 2 then .notFound else .bad, number := byteAt bs (16 * r.val) }) ∧
      (∀ x : RequestId, x ≠ r → t.ann.owed[x] = s.ann.owed[x] ∧ t.ann.taken[x] = s.ann.taken[x]) ∧
      (s.seen env).keepsBut t [(0x0140 + 16 * r.val + 1, 1), (0x0140 + 16 * r.val + 3, 1)] ∧
      t = { s with
        conds := { s.conds with flags := t.conds.flags, haltPending := t.conds.haltPending }
        time := { s.time with annDue := false }, ann := { s.ann with owed := t.ann.owed, taken := t.ann.taken }
        mem := t.mem, bus := [] }) ∧
  (∀ (env : Env) (s : State) (bs : List Byte) (r : RequestId) (i k : Nat), s.control.part = .running →
    s.conds.haltPending = none → s.time.annDue = true → (∀ e, s.holdOver e = false) →
    bs = (s.seen env).area 0x0140 128 → i = 1 ∨ ((i = 2 ∨ i = 3) ∧ ¬(s.seen env).full) →
    env.berr = List.replicate i none ++ [some k] →
    (∀ x : RequestId, x < r → s.ann.owed[x] = none ∧ byteAt bs (16 * x.val) = s.ann.taken[x]) →
    s.ann.owed[r] = none → byteAt bs (16 * r.val) ≠ s.ann.taken[r] →
    let q := annRequestAt bs r
    let found := s.findAnnouncement .board q.number
    let bad := q.mask &&& s.enabledMask = 0 ∨ q.level = 0 ∨ q.number = 0
    (q.op = 1 ∧ (bad ∨ found = none)) ∨ (q.op = 2 ∧ found ≠ none) ∨
      (q.op = 3 ∧ ∃ e, s.ofOrigin .board e = true) →
    ∃ t, exec (.announcementPoll env) s = .next t ∧ t.conds.flags.getLsbD (Condition.boardBus.code - 1) = true ∧
      t.conds.haltPending ≠ none ∧ t.ann.taken[r] = byteAt bs (16 * r.val) ∧
      (∃ outcome, t.ann.owed[r] = some { outcome := outcome, number := byteAt bs (16 * r.val) } ∧
        (q.op = 1 → bad → outcome = .bad) ∧
        (q.op = 1 → ¬bad → s.freeAnnouncement = none → outcome = .refusedTable) ∧
        (q.op = 1 → outcome = (s.boardBegin r q).1) ∧ (q.op ≠ 1 → outcome = .ended)) ∧
      (q.op = 1 → ∀ f, t.announcement f = (s.boardBegin r q).2.announcement f) ∧
      (q.op = 1 → ∀ n, t.positions n = (s.boardBegin r q).2.positions n ∧ t.unit n = (s.boardBegin r q).2.unit n) ∧
      (q.op = 2 → ∀ e, found = some e → s.Ended t fun f => f == e) ∧
      (q.op = 3 → s.Ended t (s.ofOrigin .board)) ∧
      (∀ x : RequestId, x ≠ r → t.ann.owed[x] = s.ann.owed[x] ∧ t.ann.taken[x] = s.ann.taken[x]) ∧
      (s.seen env).keepsBut t [(Config.offLog, Config.logSize * 512), (Config.offWritePosition, 2)] ∧
      t = { s with
        control := { s.control with interrupt := t.control.interrupt }
        conds := { s.conds with flags := t.conds.flags, haltPending := t.conds.haltPending }
        writePosition := t.writePosition, time := { s.time with annDue := false }, units := t.units, ann := t.ann
        mem := t.mem, bus := [] }) ∧
  (∀ (env : Env) (s : State) (bs : List Byte) (r : RequestId), s.control.part = .running → s.unmasked →
    s.time.annDue = true → (∀ e, s.holdOver e = false) → env.berr = [] → Memory.wf s.mem = true →
    (∀ k : RequestId, s.ann.owed[k] = none) →
    bs = (s.seen env).area 0x0140 128 → byteAt bs (16 * r.val) ≠ s.ann.taken[r] →
    (∀ k : RequestId, k ≠ r → byteAt bs (16 * k.val) = s.ann.taken[k]) →
    let q := annRequestAt bs r
    let found := s.findAnnouncement .board q.number
    let bad := q.mask &&& s.enabledMask = 0 ∨ q.level = 0 ∨ q.number = 0
    let duration := if q.duration = 0 then s.general.defaultHold else min q.duration 3600
    ∃ t, exec (.announcementPoll env) s = .next t ∧
      let answer := t.area (0x0140 + 16 * r.val + 3) 1
      let unmoved := t.ann.streams = s.ann.streams ∧ t.units = s.units
      let logged := fun es => (s.seen env).Logged t s.stationTime es
      let refused := fun outcome => [State.refusedRecord outcome q.level .board q.number]
      (q.op = 1 → bad → answer = [8] ∧ t.ann.table = s.ann.table ∧ unmoved ∧ logged (refused 8)) ∧
      (q.op = 1 → ¬bad → ∀ e a, found = some e → s.announcement e = some a →
        answer = [3] ∧ t.announcement e = some { a with hold := duration, duration := duration } ∧
          (∀ f, f ≠ e → t.announcement f = s.announcement f) ∧ unmoved ∧ logged []) ∧
      (q.op = 1 → ¬bad → found = none → s.freeAnnouncement = none →
        answer = [6] ∧ t.ann.table = s.ann.table ∧ unmoved ∧ logged (refused 6)) ∧
      (q.op = 1 → ¬bad → found = none → ∀ e, s.freeAnnouncement = some e →
        answer = [(s.boardBegin r q).1.code] ∧ (s.boardBegin r q).1 ∈ [AnnOutcome.begun, .queued, .refusedStreams] ∧
          (∀ f, t.announcement f = (s.boardBegin r q).2.announcement f) ∧
          (∀ n, t.unit n = (s.boardBegin r q).2.unit n) ∧
          ∀ n : StreamId, t.positions n =
            if (q.mask &&& s.enabledMask).getLsbD n.val then ((s.positions n).offer e (min q.level 7)).2
            else s.positions n) ∧
      (q.op = 1 → ¬bad → found = none → ∀ e, s.freeAnnouncement = some e → s.PositionsOk →
        let a : Announcement := {
          origin := .board, number := q.number, kind := q.kind, level := min q.level 7, duration := duration
          hold := duration, mask := q.mask &&& s.enabledMask, beginTime := s.stationTime }
        let on := fun n : StreamId => a.mask.getLsbD n.val = true
        s.Begun t e a (fun _ => a.level) ∧
        ((∃ n, on n ∧ s.level n < a.level) → answer = [1]) ∧
        ((∀ n, on n → a.level ≤ s.level n) → (∃ n, on n ∧ s.takesOffer n a.level) → answer = [2]) ∧
        ((∃ n, on n ∧ s.takesOffer n a.level) → logged (s.beginRecords t e a fun _ => a.level)) ∧
        ((∀ n, on n → ¬s.takesOffer n a.level) → answer = [7] ∧ logged (refused 7))) ∧
      (q.op = 2 → found = none → answer = [5] ∧ t.ann.table = s.ann.table ∧ unmoved ∧ logged []) ∧
      (q.op = 2 → ∀ e, found = some e → answer = [4] ∧ (s.Ended t fun f => f == e) ∧
        logged (s.endingRecords t (fun f => f == e) 1)) ∧
      (q.op = 3 → answer = [4] ∧ s.Ended t (s.ofOrigin .board) ∧
        logged (s.endingRecords t (s.ofOrigin .board) 2)) ∧
      (q.op ≠ 1 → q.op ≠ 2 → q.op ≠ 3 →
        answer = [8] ∧ t.ann.table = s.ann.table ∧ unmoved ∧ logged []) ∧
      t.area (0x0140 + 16 * r.val + 1) 1 = [byteAt bs (16 * r.val)] ∧
      (s.seen env).keepsBut t [(0x0140 + 16 * r.val + 1, 1), (0x0140 + 16 * r.val + 3, 1),
        (Config.offLog, Config.logSize * 512), (Config.offWritePosition, 2)] ∧
      t = { s with
        control := { s.control with interrupt := t.control.interrupt }
        conds := { s.conds with flags := t.conds.flags }
        writePosition := t.writePosition, time := { s.time with annDue := false }, units := t.units, ann := t.ann
        mem := t.mem, bus := [] })

/-- R112: a switch output is active exactly when the part is RUNNING or HELD, the stream is enabled, its threshold is
not 0 and its level is at or above the threshold. -/
def Obligations.SwitchOutput : Prop :=
  (∀ (s : State) (n : StreamId), s.answ n = true ↔
    (s.control.part = .running ∨ s.control.part = .held) ∧ s.enabled n = true ∧
      (s.unit n).config.switchThreshold ≠ 0 ∧ (s.unit n).config.switchThreshold ≤ s.level n) ∧
  ∀ (c : Instr) (s t : State) (n : StreamId), ((∃ u, c = .stop u) ∨ c.isReset = true) → exec c s = .next t →
    ((∃ u, c = .stop u) → s.control.part = .running ∨ s.control.part = .held) → t.answ n = false

/-! ## The contribution feed -/

/-- The sampler takes a character from its waveform: 16 samples for each of start 0, the eight data bits least
significant first, the parity bit when parity is configured, the mark bit and the stop bit give that character once.
After stop 1 the sampler waits for the next fall; after stop 0, a framing error, it waits for a sample of 1, however
many samples of 0 come before it, and then for a fall. A start bit that is 1 again at the eighth sample after its fall
was false: nothing comes of it, and the sampler waits for the next fall. A line held at 0 gives one character with
stop 0, and no more until it returns to 1 (R120, R122). -/
def Obligations.SamplerTakesCharacter : Prop :=
  ∀ p : Parity,
    let run := fun (x : Sampler) (samples : List Bool) =>
      samples.foldl (fun (y : Sampler × List Sampled) b => ((y.1.take p b).1, y.2 ++ (y.1.take p b).2.toList)) (x, [])
    (∀ (data : Byte) (parity mark stop : Bool),
      let bits := [false] ++ (List.range 8).map (fun i => data.getLsbD i) ++ (if p = .none then [] else [parity])
        ++ [mark, stop]
      run .waitFall (bits.flatMap fun b => List.replicate 16 b) =
        (if stop then .waitFall else .waitHigh,
          [{ data := data, parity := if p = .none then false else parity, mark := mark, stop := stop }])) ∧
    (∀ k : Nat, run .waitHigh (List.replicate k false) = (.waitHigh, []) ∧
      run .waitHigh (List.replicate k false ++ [true]) = (.waitFall, []) ∧
      run .waitFall (List.replicate k true) = (.waitFall, [])) ∧
    (∀ between : List Bool, between.length = 7 → run .waitFall (false :: between ++ [true]) = (.waitFall, [])) ∧
    ∀ k : Nat, run .waitFall (List.replicate (9 + 16 * (if p = .none then 10 else 11) + k) false) =
      (.waitHigh, [{ data := 0, parity := false, mark := false, stop := false }])

/-- A character with a framing or a parity error causes FEED_CHAR, is discarded with the message in assembly, and
leaves the receiver in HUNT; while the receiver is inactive a character does nothing (R122, R123; what becomes of the
matched set is the model's, log 21). R124: an address character empties the assembly buffer and sets the matched set
to the enabled streams whose region code it carries, all of them for FFH; the receiver enters COLLECT when the set is
not empty and SKIP otherwise; a message in assembly is lost with FEED_MSG. -/
def Obligations.CharacterErrorsAndAddresses : Prop :=
  (∀ (data : Byte) (parity mark stop : Bool) (env : Env) (s : State),
    (s.receiver.active = true →
      (stop = false ∨ (s.general.parity = .even ∧ oddOnes data mark parity = true) ∨
        (s.general.parity = .odd ∧ oddOnes data mark parity = false)) →
      ∃ t, exec (.feedCharacter data parity mark stop env) s = .next t ∧
        t.receiver.state = .hunt ∧ t.receiver.assembly = [] ∧ t.receiver.ready = s.receiver.ready ∧
        t.receiver.feed = s.receiver.feed ∧ t.receiver.silence = s.receiver.silence ∧ t.receiver.active = true ∧
        t.conds.flags = s.conds.flags ||| Condition.feedChar.bit ∧
        t = { s.seen env with receiver := t.receiver, conds := t.conds, bus := [] }) ∧
    (s.receiver.active = false →
      exec (.feedCharacter data parity mark stop env) s = .next { s.seen env with bus := [] })) ∧
  (∀ (data : Byte) (parity : Bool) (env : Env) (s : State), s.receiver.active = true →
    parityWrong s.general.parity data true parity = false →
    ∃ t, exec (.feedCharacter data parity true true env) s = .next t ∧
      (∀ n : StreamId, t.receiver.matched.getLsbD n.val = true ↔
        s.enabled n = true ∧ (data = 0xFF ∨ (s.unit n).config.region = data)) ∧
      (t.receiver.matched ≠ 0 → t.receiver.state = .collect) ∧ (t.receiver.matched = 0 → t.receiver.state = .skip) ∧
      t.receiver.assembly = [] ∧
      (s.receiver.state = .collect → s.receiver.assembly ≠ [] →
        t.conds.flags = s.conds.flags ||| Condition.feedMsg.bit) ∧
      (s.receiver.state ≠ .collect ∨ s.receiver.assembly = [] → t.conds = s.conds) ∧
      t = { s.seen env with
        receiver := { s.receiver with state := t.receiver.state, matched := t.receiver.matched, assembly := [] }
        conds := t.conds, bus := [] })

/-- The check byte of a good message completes it: the silence counter restarts, the feed is LIVE, and the message
goes to the ready slot with its matched set, or is lost with FEED_OVERRUN when the slot is full; the receiver is in
HUNT. A feed that was not LIVE appends FEED_OK with 1 when leaving SILENT and 2 when leaving LOST, and the message's
type (R131). After the tick at which the counter of a LIVE feed reached its limit, the completion does what it does
after FEED_LOST: the feed goes LOST with every effect of that, and then LIVE (R125 to R127, R129). A data character in
HUNT or SKIP is ignored. In COLLECT it adds its byte; a length above 40, and a message whose sum is not 0, whose type is
none of 1 to 5 or whose length is not its type's, is discarded with FEED_MSG, the receiver is in HUNT, and neither the
silence counter nor the ready slot is touched (R125, R126; the matched set stays, log 21). -/
def Obligations.MessageCompletes : Prop :=
  let right := fun (type : Byte) (n : Nat) => (type = 1 ∧ n = 16) ∨ (type = 2 ∧ n = 5) ∨ (type = 3 ∧ n = 1) ∨
    (type = 4 ∧ 11 ≤ n ∧ n ≤ 35) ∨ (type = 5 ∧ n = 6)
  (∀ (data : Byte) (parity : Bool) (env : Env) (s : State) (bs : List Byte), s.receiver.active = true →
    parityWrong s.general.parity data false parity = false → s.receiver.state = .collect →
    bs = s.receiver.assembly ++ [data] → 3 ≤ bs.length → bs.length = (byteAt bs 1).toNat + 3 →
    byteSum bs = 0 → right (byteAt bs 0) (byteAt bs 1).toNat →
    ∃ t, exec (.feedCharacter data parity false true env) s = .next t ∧
      t.receiver.state = .hunt ∧ t.receiver.assembly = [] ∧ t.receiver.silence = 0 ∧ t.receiver.feed = .live ∧
      (s.receiver.ready = none → t.receiver.ready = some {
        type := byteAt bs 0, body := (bs.drop 2).take (byteAt bs 1).toNat, matched := s.receiver.matched }) ∧
      (∀ msg, s.receiver.ready = some msg → t.receiver.ready = some msg ∧
        t.conds.flags.getLsbD (Condition.feedOverrun.code - 1) = true) ∧
      (s.receiver.feed = .lost → ∀ n, (t.feedName n).codes = (s.feedName n).codes ∧
        (t.feedName n).state = if (s.feedName n).state = .kept then .current else (s.feedName n).state) ∧
      (s.receiver.feed ≠ .live → env.berr = [] → Memory.wf s.mem = true →
        (s.seen env).Logged t s.stationTime [{
          kind := .feedOk, stream := none, reason := if s.receiver.feed = .lost then 2 else 1, aux := 0
          subject := (byteAt bs 0).setWidth 16 }] ∧
        (s.seen env).keepsBut t s.logRanges) ∧
      (¬(s.control.part = .running ∧ s.receiver.feed = .live ∧ s.general.silenceLimit ≤ s.receiver.silence) →
        (s.receiver.feed = .live → t.writePosition = s.writePosition ∧ t.mem = (s.seen env).mem ∧
          t.engine = s.engine) ∧
        t = { s with
          control := { s.control with interrupt := t.control.interrupt }
          conds := { s.conds with flags := t.conds.flags, haltPending := t.conds.haltPending }
          writePosition := t.writePosition, receiver := t.receiver
          engine := { s.engine with names := t.engine.names }, mem := t.mem, bus := [] }) ∧
      (s.control.part = .running → s.receiver.feed = .live → s.general.silenceLimit ≤ s.receiver.silence →
        env.berr = [] → ∃ lost, exec (.feedLost env) s = .next lost ∧ lost.receiver.feed = .lost ∧
          exec (.feedCharacter data parity false true env) s =
            exec (.feedCharacter data parity false true Env.quiet) lost)) ∧
  ∀ (data : Byte) (parity : Bool) (env : Env) (s : State) (bs : List Byte), s.receiver.active = true →
    parityWrong s.general.parity data false parity = false → bs = s.receiver.assembly ++ [data] →
    let n := (byteAt bs 1).toNat
    let ended := 3 ≤ bs.length ∧ bs.length = n + 3
    let tooLong := bs.length = 2 ∧ 40 < data.toNat
    let becomes := fun r : Receiver =>
      exec (.feedCharacter data parity false true env) s = .next { s.seen env with receiver := r, bus := [] }
    (s.receiver.state ≠ .collect → becomes s.receiver) ∧
    (s.receiver.state = .collect → ¬ended → ¬tooLong → becomes { s.receiver with assembly := bs }) ∧
    (s.receiver.state = .collect → tooLong ∨ (ended ∧ (byteSum bs ≠ 0 ∨ ¬right (byteAt bs 0) n)) →
      ∃ t, exec (.feedCharacter data parity false true env) s = .next t ∧
        t.receiver = { s.receiver with state := .hunt, assembly := [] } ∧
        t.conds.flags = s.conds.flags ||| Condition.feedMsg.bit ∧
        t = { s.seen env with
          receiver := t.receiver
          conds := { s.conds with flags := t.conds.flags, haltPending := t.conds.haltPending }, bus := [] })

/-- The feed goes LOST when the silence counter of a LIVE feed is at its limit while RUNNING: every feed announcement
ends with all its positions, and the streams that it leaves resume; no board announcement ends, every CURRENT feed
name is KEPT, and the notice store and the lanes stay. Without BERR the log has FEED_LOST, with the number of feed
announcements ended and the silence limit, and then the records of the ending with FEED_LOST (R129 to R131, R104, R116).
-/
def Obligations.FeedLossEndsFeedAnnouncements : Prop :=
  ∀ (env : Env) (s : State), s.control.part = .running → s.receiver.feed = .live →
    s.general.silenceLimit ≤ s.receiver.silence →
    ∃ t, exec (.feedLost env) s = .next t ∧ t.receiver = { s.receiver with feed := .lost } ∧
      (∀ e, t.announcement e = (s.announcement e).filter fun a => a.origin = .board) ∧
      (∀ n p a, (s.positions n).current = some p → s.announcement p.entry = some a → a.origin = .board →
        (t.positions n).current = some p) ∧
      s.Ended t (s.ofOrigin .feed) ∧
      (∀ n p a, p ∈ (t.positions n).all → s.announcement p.entry = some a → a.origin = .board) ∧
      (∀ n, t.feedName n = { s.feedName n with
        state := if (s.feedName n).state = .current then .kept else (s.feedName n).state }) ∧
      (env.berr = [] → Memory.wf s.mem = true →
        let records := {
            kind := .feedLost, stream := none, reason := 0, subject := BitVec.ofNat 16 s.general.silenceLimit
            aux := BitVec.ofNat 8 ((List.finRange 16).filter fun e =>
              (s.announcement e).any fun a => decide (a.origin = .feed)).length } ::
          s.endingRecords t (s.ofOrigin .feed) 4
        (s.seen env).Logged t s.stationTime records ∧ (s.seen env).keepsBut t (s.logSpan records.length)) ∧
      t.engine.store = s.engine.store ∧ t.sched = s.sched ∧
      t = { s with
        control := { s.control with interrupt := t.control.interrupt }
        conds := { s.conds with flags := t.conds.flags, haltPending := t.conds.haltPending }
        writePosition := t.writePosition, receiver := t.receiver, units := t.units, engine := t.engine
        ann := { s.ann with table := t.ann.table, streams := t.ann.streams }, mem := t.mem, bus := [] }

/-- The engine's action on NAME_SET, KEEPALIVE, ALERT_BEGIN and ALERT_END messages (R96, R98, R103, R132 to R135,
R145, R148): the slot is emptied. A NAME_SET gives each matched stream the 16 codes with state CURRENT and leaves the
others. A KEEPALIVE sets the clock and the offset, clamped to 24 half-hours with VALUE_CLAMP, unless the clock source
is LOCAL, when it changes nothing; where the clock was UNSET or of origin BOARD, the time moves by 2 seconds or more or
the offset changes, it appends CLOCK_SET with the new origin 2, the clock state before, 0 and the new time, and nothing
otherwise (R149). An ALERT_BEGIN with level or number 0, or that finds no entry free, changes no
announcement; one in the table is renewed; a new one is offered to each matched stream at its level there, held to the
stream's feed ceiling, and on idle streams is CURRENT with bursts set; a value held to its limit causes VALUE_CLAMP.
An ALERT_END ends the feed announcement of its number, or does nothing. Without BERR their records are those of a board
request's, with origin FEED and the level and number as sent (R116). What is said of the two ALERT messages holds
where no expiry is due; ExpiredHoldsEnd says what comes first where one is (R105, log 10). -/
def Obligations.NameSetAndKeepalive : Prop :=
  ∀ (env : Env) (s : State) (msg : FeedMessage), s.control.part = .running → s.conds.haltPending = none →
    s.receiver.ready = some msg →
    (msg.type = 1 → msg.body.length = 16 →
      ∃ t, exec (.feedMessageAction env) s = .next t ∧
        (∀ n : StreamId, t.feedName n =
          if msg.matched.getLsbD n.val then { codes := Vector.ofFn fun i => byteAt msg.body i.val, state := .current }
          else s.feedName n) ∧
        t = { s.seen env with
          engine := { s.engine with names := t.engine.names }, receiver := { s.receiver with ready := none },
            bus := [] }) ∧
    (msg.type = 5 → s.clock.source = .localOnly →
      exec (.feedMessageAction env) s =
        .next { s.seen env with receiver := { s.receiver with ready := none }, bus := [] }) ∧
    (msg.type = 5 → s.clock.source ≠ .localOnly →
      ∃ t, exec (.feedMessageAction env) s = .next t ∧
        t.clock = { s.clock with
          origin := some .feed, time := be32At msg.body 0, offset := max (-24) (min (byteAt msg.body 4).toInt 24) } ∧
        (24 < (byteAt msg.body 4).toInt ∨ (byteAt msg.body 4).toInt < -24 →
          t.conds.flags.getLsbD (Condition.valueClamp.code - 1) = true) ∧
        (let far := 2 ≤ s.clock.time.toNat - (be32At msg.body 0).toNat ∨
            2 ≤ (be32At msg.body 0).toNat - s.clock.time.toNat
          let reports := s.clock.origin ≠ some .feed ∨ far ∨ t.clock.offset ≠ s.clock.offset
          (¬reports → t.mem = (s.seen env).mem ∧ t.writePosition = s.writePosition ∧
            t.control.interrupt = s.control.interrupt) ∧
          (reports → env.berr = [] → Memory.wf s.mem = true →
            (s.seen env).Logged t (be32At msg.body 0) [{
              kind := .clockSet, stream := none, reason := 2, subject := 0
              aux := match s.clock.origin with
                | none => 0
                | some .board => 1
                | some .feed => 2 }] ∧
            (s.seen env).keepsBut t s.logRanges)) ∧
        t = { s with
          control := { s.control with interrupt := t.control.interrupt }
          conds := { s.conds with flags := t.conds.flags, haltPending := t.conds.haltPending }
          writePosition := t.writePosition, clock := t.clock, receiver := { s.receiver with ready := none }
          mem := t.mem, bus := [] }) ∧
    (msg.type = 2 ∨ msg.type = 3 → (∀ e, s.holdOver e = false) →
      let number := byteAt msg.body 0
      let level := (byteAt msg.body 1).toNat
      let bad := level = 0 ∨ number = 0
      let sent := (be16At msg.body 3).toNat
      let duration := if sent = 0 then s.general.defaultHold else min sent 3600
      let found := s.findAnnouncement .feed number
      ∃ t, exec (.feedMessageAction env) s = .next t ∧
        let unmoved := t.ann.streams = s.ann.streams ∧ t.units = s.units
        let logged := fun es => env.berr = [] → Memory.wf s.mem = true →
          (s.seen env).Logged t s.stationTime es ∧ (s.seen env).keepsBut t (s.logSpan es.length)
        let refused := fun outcome => [State.refusedRecord outcome level .feed number]
        t = { s with
          control := { s.control with interrupt := t.control.interrupt }
          conds := { s.conds with flags := t.conds.flags, haltPending := t.conds.haltPending }
          writePosition := t.writePosition, units := t.units
          ann := { s.ann with table := t.ann.table, streams := t.ann.streams }
          receiver := { s.receiver with ready := none }, mem := t.mem, bus := [] } ∧
        (msg.type = 2 → bad → t.ann.table = s.ann.table ∧ unmoved ∧ logged (refused 8)) ∧
        (msg.type = 2 → ¬bad → ∀ e a, found = some e → s.announcement e = some a →
          t.announcement e = some { a with hold := duration, duration := duration } ∧
            (∀ f, f ≠ e → t.announcement f = s.announcement f) ∧ unmoved ∧ logged []) ∧
        (msg.type = 2 → ¬bad → found = none → s.freeAnnouncement = none →
          t.ann.table = s.ann.table ∧ unmoved ∧ logged (refused 6)) ∧
        (msg.type = 2 → ¬bad → found = none → ∀ e, s.freeAnnouncement = some e →
          (∀ n : StreamId, t.positions n =
            if msg.matched.getLsbD n.val then
              ((s.positions n).offer e (min (min level 7) (s.unit n).config.feedCeiling)).2
            else s.positions n) ∧
          (msg.matched ≠ 0 → (∀ n : StreamId, msg.matched.getLsbD n.val = true → (s.positions n).current = none) →
            t.announcement e = some {
              origin := .feed, number := number, kind := (byteAt msg.body 2).setWidth 4, level := min level 7
              duration := duration, hold := duration, mask := msg.matched, beginTime := s.stationTime } ∧
            (∀ f, f ≠ e → t.announcement f = s.announcement f) ∧
            ∀ n : StreamId, t.unit n =
              if msg.matched.getLsbD n.val then { s.unit n with burst := (s.unit n).config.burst } else s.unit n)) ∧
        (msg.type = 2 → ¬bad → found = none → ∀ e, s.freeAnnouncement = some e → s.PositionsOk →
          let a : Announcement := {
            origin := .feed, number := number, kind := (byteAt msg.body 2).setWidth 4, level := min level 7
            duration := duration, hold := duration, mask := msg.matched, beginTime := s.stationTime }
          let levelOn := fun n : StreamId => min (min level 7) (s.unit n).config.feedCeiling
          let takes := ∃ n : StreamId, msg.matched.getLsbD n.val = true ∧ s.takesOffer n (levelOn n)
          s.Begun t e a levelOn ∧ (takes → logged (s.beginRecords t e a levelOn)) ∧ (¬takes → logged (refused 7))) ∧
        (msg.type = 2 → ¬bad → (7 < level ∨ 3600 < sent ∨ ∃ n : StreamId, msg.matched.getLsbD n.val = true ∧
            (s.unit n).config.feedCeiling < min level 7) →
          t.conds.flags.getLsbD (Condition.valueClamp.code - 1) = true) ∧
        (msg.type = 3 → found = none →
          t = { s.seen env with receiver := { s.receiver with ready := none }, bus := [] }) ∧
        (msg.type = 3 → ∀ e, found = some e → (s.Ended t fun f => f == e) ∧
          logged (s.endingRecords t (fun f => f == e) 1)))

/-- A new notice with a FREE entry is held in the lowest-numbered one with the message's values and a life of 60 seconds
for each minute, and stands when a stream gives it a lane. The matched and enabled streams whose ceiling takes the load
give one, in order 0 to 3 while lanes are free, and each exactly one, in a lane that was free: period and class by its
urgency, 1 + ceil(n / 8) cells for n codes of text, countdown 0 and counts 0, with the load of those, which its stream's
committed load rises by; no other lane, stream or entry changes (R136, R137, R86, R193, R194). That such a lane is fresh,
and so waits for the next slot opening of its stream, is the model's reading of log 41. It holds where no release
is due; LapsedNoticeReleased says what comes first where one is (R140, log 10). -/
def Obligations.NewNoticeHeld : Prop :=
  ∀ (env : Env) (s : State) (msg : FeedMessage) (j : StoreId), s.control.part = .running →
    s.conds.haltPending = none → s.receiver.ready = some msg → msg.type = 4 → 11 ≤ msg.body.length →
    (byteAt msg.body 2).getLsbD 7 = false → be16At msg.body 3 ≠ 0 → s.findNotice (be16At msg.body 0) = none →
    s.freeNotice = some j → (∀ i l, s.lane i = some l → l.source ≠ .notice j) →
    (∀ k x, s.notice k = .held x → x.life ≠ 0) →
    let urgency := ((byteAt msg.body 2).extractLsb' 0 2).toNat
    let tenths := if urgency = 3 then 50 else if urgency = 2 then 150 else if urgency = 1 then 300 else 600
    let p := fun n : StreamId => max 1 (min ((tenths * (s.unit n).config.rate + 480) / 960) 65535)
    let m := 1 + (msg.body.length - 11 + 7) / 8
    let load := fun n : StreamId => (m * 65536 + p n - 1) / p n
    let wants := fun n : StreamId =>
      msg.matched.getLsbD n.val && s.enabled n && decide (s.committed n + load n ≤ s.ceiling n)
    let gives := fun n : StreamId => wants n = true ∧
      ((List.finRange 4).filter fun x => decide (x < n) && wants x).length <
        ((List.finRange 96).filter fun i => (s.lane i).isNone).length
    let given := fun n : StreamId => ({
      source := .notice j, stream := n, cls := if urgency = 3 then 0 else if urgency = 0 then 3 else 2, period := p n
      m := m, countdown := 0, air := 0, load := load n, repetition := .idle, closing := none, fresh := true } : Lane)
    (∃ n, gives n) →
    ∃ t, exec (.feedMessageAction env) s = .next t ∧
      t.notice j = .held {
        id := be16At msg.body 0, urgency := ((byteAt msg.body 2).extractLsb' 0 2).toNat
        location := be16At msg.body 5, event := be16At msg.body 7, extent := byteAt msg.body 9
        flags := byteAt msg.body 10, text := msg.body.drop 11, life := 60 * (be16At msg.body 3).toNat } ∧
      (∀ k, k ≠ j → t.notice k = s.notice k) ∧
      (∀ n, given n = s.noticeLane j (noticeOf msg.body) n) ∧
      (∀ n, gives n → t.committed n = s.committed n + load n ∧
        ∃ i, s.lane i = none ∧ t.lane i = some (given n) ∧ ∀ x l, t.lane x = some l → l.source = .notice j →
          l.stream = n → x = i) ∧
      (∀ n, ¬gives n → t.committed n = s.committed n) ∧
      (∀ i l, s.lane i = some l → t.lane i = some l) ∧
      (∀ i l, s.lane i = none → t.lane i = some l → gives l.stream ∧ l = given l.stream) ∧
      t = { s.seen env with
        engine := { s.engine with store := t.engine.store }, sched := t.sched
        receiver := { s.receiver with ready := none }, bus := [] }

/-- An entry whose remaining life has reached 0 is released while RUNNING: it holds no notice, its lanes that are in no
repetition are freed at once, those in a repetition are closing, and it is FREE when its last lane has been freed (R63,
R88, R138, R140, R141). The action on a NOTICE that comes between a tick and NOTICE_LIFE_EXPIRED takes the releases
first and then acts on the store that these leave, where no entry holds the id of a notice whose life is over, so that
an update of it is a new notice (R140; when the command comes is the model's order, log 10). -/
def Obligations.LapsedNoticeReleased : Prop :=
  (∀ s : State, s.control.part = .running →
    ∃ t, exec .noticeLifeExpired s = .next t ∧
      (∀ j x, s.notice j = .held x → x.life ≠ 0 → t.notice j = .held x) ∧
      (∀ j x, s.notice j = .held x → x.life = 0 →
        (t.notice j = .releasing ∨ t.notice j = .free) ∧
        (∀ i l, s.lane i = some l → l.source = .notice j → l.closing = none →
          (l.repetition = .idle → t.lane i = none) ∧
          (l.repetition ≠ .idle → t.lane i = some { l with closing := some .unreasoned })) ∧
        (∀ i l, s.lane i = some l → l.source = .notice j → l.closing ≠ none → t.lane i = some l) ∧
        (∀ i l, t.lane i = some l → l.source = .notice j → l.closing ≠ none) ∧
        ((∃ i l, t.lane i = some l ∧ l.source = .notice j) → t.notice j = .releasing) ∧
        ((∃ i l, s.lane i = some l ∧ l.source = .notice j) → (∀ i l, t.lane i = some l → l.source ≠ .notice j) →
          t.notice j = .free)) ∧
      (∀ i l, s.lane i = some l → (∀ j x, l.source = .notice j → s.notice j = .held x → x.life ≠ 0) →
        t.lane i = some l) ∧
      (∀ i, s.lane i = none → t.lane i = none) ∧
      t = { s with sched := t.sched, engine := { s.engine with store := t.engine.store } }) ∧
  ∀ (env : Env) (s : State) (msg : FeedMessage), s.control.part = .running → s.conds.haltPending = none →
    s.receiver.ready = some msg → msg.type = 4 →
    ∃ r, exec .noticeLifeExpired s = .next r ∧ (∀ j x, r.notice j = .held x → x.life ≠ 0) ∧
      (∀ id, (∀ j x, s.notice j = .held x → x.id = id → x.life = 0) → r.findNotice id = none) ∧
      exec (.feedMessageAction env) s = exec (.feedMessageAction env) r

/-- The engine's action on a NOTICE message (R87, R88, R136 to R139, R141). A cancellation of an id not held changes
nothing; of one held, the entry is released as at the end of its life. An update replaces the notice of its entry and
keeps every lane when neither urgency nor cell count has changed; otherwise each lane that is not closing takes the
new class, period, cells and load, with the smaller countdown, where its stream can take the load, and is closed where
it cannot; an entry left with no lane is dropped with FEED_DROP. A new notice that finds no FREE entry replaces the
HELD entry of least remaining life, the lowest-numbered among equals, when its own life is above that, and is dropped
with FEED_DROP otherwise, as is one that no stream gives a lane. An update and a replacement get a lane on each matched
stream that holds none of the entry and can take one, in order 0 to 3 while lanes are free. Without BERR a
FEED_NOTICE_DROPPED stands for each notice dropped or replaced, with NO_LANE 1, STORE_FULL 2, REPLACED 3 or RE_RATE 4,
its urgency and its id, and no other record. No other entry and no other lane changes. It holds
where no release is due; LapsedNoticeReleased says what comes first where one is (R140, log 10). -/
def Obligations.NoticeMessages : Prop :=
  ∀ (env : Env) (s : State) (msg : FeedMessage), s.control.part = .running → s.conds.haltPending = none →
    s.receiver.ready = some msg → msg.type = 4 → 11 ≤ msg.body.length →
    (∀ k y, s.notice k = .held y → y.life ≠ 0) →
    let id := be16At msg.body 0
    let cancels := (byteAt msg.body 2).getLsbD 7 = true ∨ be16At msg.body 3 = 0
    let x := noticeOf msg.body
    let dropped := fun t : State => t.conds.flags.getLsbD (Condition.feedDrop.code - 1) = true
    let logged := fun (t : State) (es : List LogEvent) => env.berr = [] → Memory.wf s.mem = true →
      (s.seen env).Logged t s.stationTime es ∧ (s.seen env).keepsBut t (s.logSpan es.length)
    let others := fun (j : StoreId) (t : State) =>
      (∀ k, k ≠ j → t.notice k = s.notice k) ∧
      ∀ i l, l.source ≠ .notice j → (t.lane i = some l ↔ s.lane i = some l)
    ∃ t, exec (.feedMessageAction env) s = .next t ∧
      t = { s with
        control := { s.control with interrupt := t.control.interrupt }
        conds := { s.conds with flags := t.conds.flags, haltPending := t.conds.haltPending }
        writePosition := t.writePosition, engine := { s.engine with store := t.engine.store }, sched := t.sched
        receiver := { s.receiver with ready := none }, mem := t.mem, bus := [] } ∧
      t.sched.shadow = s.sched.shadow ∧
      (cancels → s.findNotice id = none →
        t = { s.seen env with receiver := { s.receiver with ready := none }, bus := [] }) ∧
      (cancels → ∀ j, s.findNotice id = some j → others j t ∧ t.conds = s.conds ∧ t.mem = (s.seen env).mem ∧
        (t.notice j = .releasing ∨ t.notice j = .free) ∧
        (∀ i l, s.lane i = some l → l.source = .notice j → l.closing = none →
          (l.repetition = .idle → t.lane i = none) ∧
          (l.repetition ≠ .idle → t.lane i = some { l with closing := some .unreasoned })) ∧
        ((∃ i l, t.lane i = some l ∧ l.source = .notice j) → t.notice j = .releasing) ∧
        ((∃ i l, s.lane i = some l ∧ l.source = .notice j) → (∀ i l, t.lane i = some l → l.source ≠ .notice j) →
          t.notice j = .free)) ∧
      (¬cancels → ∀ j old, s.findNotice id = some j → s.notice j = .held old → s.LanesOk →
        others j t ∧
        ((∃ i l, t.lane i = some l ∧ l.source = .notice j) → t.notice j = .held x ∧ logged t []) ∧
        (s.LanesGiven t j x msg.matched fun l =>
          !(old.urgency == x.urgency && (old.text.length + 7) / 8 == (x.text.length + 7) / 8) && l.closing.isNone &&
            l.repetition == .idle &&
            decide (s.ceiling l.stream < s.committed l.stream - l.load + (s.noticeLane j x l.stream).load)) ∧
        ((∃ i l, s.lane i = some l ∧ l.source = .notice j) → (∀ i l, t.lane i = some l → l.source ≠ .notice j) →
          t.notice j = .free ∧ dropped t ∧ logged t [State.droppedRecord x 4]) ∧
        (∀ i l, t.lane i = some l → l.source = .notice j →
          (∃ k, s.lane i = some k ∧ k.source = .notice j ∧ k.stream = l.stream) ∨
            (msg.matched.getLsbD l.stream.val = true ∧ s.enabled l.stream = true ∧ l = s.noticeLane j x l.stream)) ∧
        ∀ i l, s.lane i = some l → l.source = .notice j →
          let same := old.urgency = x.urgency ∧ (old.text.length + 7) / 8 = (x.text.length + 7) / 8
          let new := s.noticeLane j x l.stream
          let fits := s.committed l.stream - l.load + new.load ≤ s.ceiling l.stream
          (same ∨ l.closing ≠ none → t.lane i = some l) ∧
          (¬same → l.closing = none → fits → t.lane i = some { l with
            cls := new.cls, period := new.period, m := new.m, load := new.load,
            countdown := min l.countdown (new.period : Int) }) ∧
          (¬same → l.closing = none → ¬fits → l.repetition ≠ .idle →
            t.lane i = some { l with closing := some .unreasoned }) ∧
          (¬same → l.closing = none → ¬fits → l.repetition = .idle →
            ∀ k m, t.lane k = some m → m.source = .notice j → m.stream ≠ l.stream)) ∧
      (¬cancels → s.findNotice id = none → s.freeNotice = none →
        (∀ k y, s.notice k = .held y → x.life ≤ y.life) →
          dropped t ∧ t.engine = s.engine ∧ t.sched = s.sched ∧ logged t [State.droppedRecord x 2]) ∧
      (¬cancels → s.findNotice id = none → s.freeNotice = none → ∀ j old, s.notice j = .held old → old.life < x.life →
        (∀ k y, s.notice k = .held y → old.life < y.life ∨ (old.life = y.life ∧ j ≤ k)) →
          others j t ∧
          (∀ i l, s.lane i = some l → l.source = .notice j → l.repetition ≠ .idle →
            t.lane i = some { l with closing := some (l.closing.getD .unreasoned) }) ∧
          (∀ i l, t.lane i = some l → l.source = .notice j → l.closing = none →
            msg.matched.getLsbD l.stream.val = true ∧ s.enabled l.stream = true ∧ l = s.noticeLane j x l.stream) ∧
          (s.LanesOk → s.LanesGiven t j x msg.matched fun l => l.closing.isNone && l.repetition == .idle) ∧
          ((∃ i l, t.lane i = some l ∧ l.source = .notice j ∧ l.closing = none) → t.notice j = .held x ∧
            logged t [State.droppedRecord old 3]) ∧
          ((∀ i l, t.lane i = some l → l.source = .notice j → l.closing ≠ none) → dropped t ∧
            logged t [State.droppedRecord old 3, State.droppedRecord x 1] ∧
            ((∃ i l, t.lane i = some l ∧ l.source = .notice j) → t.notice j = .releasing) ∧
            ((∀ i l, t.lane i = some l → l.source ≠ .notice j) → t.notice j = .free))) ∧
      (¬cancels → s.findNotice id = none → ∀ j, s.freeNotice = some j →
        (∀ i l, s.lane i = some l → l.source ≠ .notice j) →
        (∀ n : StreamId, msg.matched.getLsbD n.val = true → s.enabled n = true → s.noticeLaneFits j x n = false) →
          dropped t ∧ t.sched = s.sched ∧ (∀ k, t.notice k = s.notice k) ∧ logged t [State.droppedRecord x 1])

/-! ## Invariants and whole-machine rules -/

/-- Every step keeps board memory in its canonical form. -/
def Obligations.StepKeepsMemoryCanonical : Prop :=
  ∀ s t : State, Memory.wf s.mem = true → step s = .next t → Memory.wf t.mem = true

/-- R25: the part writes host memory inside the exchange area and nowhere else: after any command, every address outside
the area reads as the host left it. -/
def Obligations.WritesOnlyExchangeArea : Prop :=
  ∀ (c : Instr) (s t : State) (a : Nat), exec c s = .next t → ¬s.inArea a →
    memRead t.mem a = memRead (s.seen c.env).mem a

/-- R60, R62, R67 and R71: every step keeps the scheduler's rules: the committed load of a stream is the sum of its
lanes' loads and never above its ceiling units, no two lanes share stream and source, and an item's lane has its
shadow entry; no two shadow entries are for one slot, and each has a lane; P lies within 1 to 65535, the countdown
within -65535 to P, and the load is that of P and the cells; at most one lane of a stream is in a repetition, whose
fetch or staged parts its stream holds, and none before a slot of its stream has opened since its creation (R37; of a
feed notice's lane by log 41); off air a stream has nothing staged, no fetch and no ALERT cells owed; and
while STOPPED or STARTING every stream is OFF, as is on air every stream not enabled (R15, R16, R23). -/
def Obligations.StepKeepsLaneTable : Prop :=
  ∀ s t : State, s.SchedulerOk → step s = .next t → t.SchedulerOk

/-- R91 to R93: every step keeps the order of every stream's positions and the bounds of its stack and list, one
position for an announcement and its arrival orders; and the announcement table agrees with the positions: the mask of
an announcement names the streams on which it holds a position, which are enabled and at least one, every position is
of an announcement in the table, and origin and number identify it. -/
def Obligations.StepKeepsPositions : Prop :=
  ∀ s t : State, s.PositionsOk → step s = .next t → t.PositionsOk

/-- The state after reset meets the invariants of memory, of the scheduler and of the positions. -/
def Obligations.ResetMeetsInvariants : Prop :=
  Memory.wf State.reset.mem = true ∧ State.reset.SchedulerOk ∧ State.reset.PositionsOk
end

