-- ==== Sys2Proof/Laws/Memory.lean ====
section
/-! SUPPORT. Board memory: what is read after a write, and the canonical form that every memory operation keeps. -/

namespace Sys2Proof.Machine

@[simp] theorem memRead_nil (a : Nat) : memRead [] a = Config.unlistedByte := rfl

/-! ## The canonical form -/

theorem memWfFrom_mono {m : Memory} {lo hi : Nat} (h : memWfFrom hi m = true) (le : lo ≤ hi) :
    memWfFrom lo m = true := by
  cases m with
  | nil => rfl
  | cons c rest =>
    obtain ⟨a, v⟩ := c
    simp only [memWfFrom, Bool.and_eq_true, decide_eq_true_eq] at h ⊢
    exact ⟨⟨by omega, h.1.2⟩, h.2⟩

theorem memWfFrom_memWrite {m : Memory} {lo : Nat} (h : memWfFrom lo m = true) (a : Nat) (v : Byte)
    (le : lo ≤ a) : memWfFrom lo (memWrite m a v) = true := by
  induction m generalizing lo with
  | nil =>
    by_cases hv : v = Config.unlistedByte <;> simp [memWrite, memWfFrom, hv, le]
  | cons c rest ih =>
    obtain ⟨b, w⟩ := c
    simp only [memWfFrom, Bool.and_eq_true, decide_eq_true_eq] at h
    obtain ⟨⟨hb, hw⟩, hr⟩ := h
    simp only [memWrite]
    split
    · split
      · simp [memWfFrom, hb, hw, hr]
      · rename_i hlt hv
        have : memWfFrom (a + 1) ((b, w) :: rest) = true := by
          simp only [memWfFrom, Bool.and_eq_true, decide_eq_true_eq]
          exact ⟨⟨by omega, hw⟩, hr⟩
        simp [memWfFrom, le, hv] at this ⊢
        exact this
    · split
      · rename_i hnl he
        subst he
        split
        · exact memWfFrom_mono hr (by omega)
        · rename_i hv
          simp [memWfFrom, le, hv, hr]
      · rename_i hnl hne
        have := ih hr (by omega)
        simp [memWfFrom, hb, hw, this]

/-- Writing a byte keeps the canonical form. -/
theorem Memory.wf_memWrite {m : Memory} (h : Memory.wf m = true) (a : Nat) (v : Byte) :
    Memory.wf (memWrite m a v) = true := memWfFrom_memWrite h a v (Nat.zero_le _)

/-- Writing a run of bytes keeps the canonical form. -/
theorem Memory.wf_memWriteRun {m : Memory} (h : Memory.wf m = true) (a : Word) (bs : List Byte) :
    Memory.wf (memWriteRun m a bs) = true := by
  induction bs generalizing m a with
  | nil => exact h
  | cons v vs ih => exact ih (Memory.wf_memWrite h _ _) _

/-- The host's writes keep the canonical form. -/
theorem Memory.wf_memHostWrites {m : Memory} (h : Memory.wf m = true) (ws : List (Word × Byte)) :
    Memory.wf (memHostWrites m ws) = true := by
  induction ws generalizing m with
  | nil => exact h
  | cons w ws ih => exact ih (Memory.wf_memWrite h _ _)

/-- The memory after reset has the canonical form. -/
theorem Memory.wf_reset : Memory.wf State.reset.mem = true := rfl

/-! ## Reading after writing -/

theorem memRead_of_memWfFrom {m : Memory} {lo a : Nat} (h : memWfFrom lo m = true) (lt : a < lo) :
    memRead m a = Config.unlistedByte := by
  induction m generalizing lo with
  | nil => rfl
  | cons c rest ih =>
    obtain ⟨b, w⟩ := c
    simp only [memWfFrom, Bool.and_eq_true, decide_eq_true_eq] at h
    rw [memRead, if_neg (by omega)]
    exact ih h.2 (by omega)

/-- A byte written is the byte read, in canonical memory. -/
theorem memRead_memWrite_self {m : Memory} (h : Memory.wf m = true) (a : Nat) (v : Byte) :
    memRead (memWrite m a v) a = v := by
  suffices ∀ lo, memWfFrom lo m = true → memRead (memWrite m a v) a = v from this 0 h
  clear h
  induction m with
  | nil =>
    intro lo _
    by_cases hv : v = Config.unlistedByte <;> simp [memWrite, memRead, hv]
  | cons c rest ih =>
    obtain ⟨b, w⟩ := c
    intro lo h
    simp only [memWfFrom, Bool.and_eq_true, decide_eq_true_eq] at h
    simp only [memWrite]
    split
    · rename_i hlt
      split
      · rename_i hv
        rw [memRead, if_neg (by omega), memRead_of_memWfFrom h.2 (by omega), hv]
      · simp [memRead]
    · split
      · rename_i he
        split
        · rename_i hv
          rw [memRead_of_memWfFrom h.2 (by omega), hv]
        · simp [memRead]
      · rename_i hne
        rw [memRead, if_neg (by omega)]
        exact ih _ h.2

/-- A write leaves every other address as it was. -/
theorem memRead_memWrite_ne {m : Memory} {a b : Nat} (ne : b ≠ a) (v : Byte) :
    memRead (memWrite m a v) b = memRead m b := by
  induction m with
  | nil => by_cases hv : v = Config.unlistedByte <;> simp [memWrite, memRead, hv, Ne.symm ne]
  | cons c rest ih =>
    obtain ⟨x, w⟩ := c
    simp only [memWrite]
    split
    · split
      · rfl
      · simp [memRead, Ne.symm ne]
    · split
      · rename_i he
        subst he
        split
        · simp [memRead, Ne.symm ne]
        · simp [memRead, Ne.symm ne]
      · simp only [memRead, ih]

/-! ## Runs -/

@[simp] theorem memReadRun_length (m : Memory) (a : Word) (n : Nat) : (memReadRun m a n).length = n := by
  induction n generalizing a with
  | zero => rfl
  | succ n ih => simp [memReadRun, ih]

/-- The address after the first one of a run. -/
theorem addr_succ (a : Word) (k : Nat) : a + 1 + BitVec.ofNat 32 k = a + BitVec.ofNat 32 (k + 1) := by
  rw [BitVec.add_assoc]
  congr 1
  apply BitVec.eq_of_toNat_eq
  simp [BitVec.toNat_add, BitVec.toNat_ofNat]
  omega

/-- The address of byte i of a run. -/
theorem memReadRun_getElem? (m : Memory) (a : Word) (n i : Nat) (lt : i < n) :
    (memReadRun m a n)[i]? = some (memRead m (a + BitVec.ofNat 32 i).toNat) := by
  induction n generalizing a i with
  | zero => omega
  | succ n ih =>
    cases i with
    | zero => simp [memReadRun]
    | succ i =>
      rw [memReadRun, List.getElem?_cons_succ, ih (a + 1) i (by omega)]
      rw [addr_succ]

/-- An address outside a run written keeps its byte. -/
theorem memRead_memWriteRun_of_not_mem {m : Memory} {a : Word} {bs : List Byte} {x : Nat}
    (h : ∀ i, i < bs.length → (a + BitVec.ofNat 32 i).toNat ≠ x) :
    memRead (memWriteRun m a bs) x = memRead m x := by
  induction bs generalizing m a with
  | nil => rfl
  | cons v vs ih =>
    have h0 : a.toNat ≠ x := by simpa using h 0 (by simp)
    rw [memWriteRun, ih, memRead_memWrite_ne (Ne.symm h0)]
    intro i hi
    have := h (i + 1) (by simpa using hi)
    rwa [addr_succ]

/-- Different offsets of a run no longer than the address space name different bytes. -/
theorem addr_ne_of_lt {a : Word} {i j : Nat} (hi : i < 2 ^ 32) (hj : j < 2 ^ 32) (ne : i ≠ j) :
    (a + BitVec.ofNat 32 i).toNat ≠ (a + BitVec.ofNat 32 j).toNat := by
  simp only [BitVec.toNat_add, BitVec.toNat_ofNat]
  have := a.isLt
  omega

/-- Byte i of a run written is read back, in canonical memory. -/
theorem memRead_memWriteRun_self {m : Memory} (wf : Memory.wf m = true) {a : Word} {bs : List Byte}
    (short : bs.length ≤ 2 ^ 32) {i : Nat} (lt : i < bs.length) :
    memRead (memWriteRun m a bs) (a + BitVec.ofNat 32 i).toNat = bs[i] := by
  induction bs generalizing m a i with
  | nil => simp at lt
  | cons v vs ih =>
    simp only [List.length_cons] at short lt
    cases i with
    | zero =>
      rw [memWriteRun, memRead_memWriteRun_of_not_mem, List.getElem_cons_zero]
      · simpa using memRead_memWrite_self wf a.toNat v
      · intro k hk
        rw [addr_succ]
        exact addr_ne_of_lt (by omega) (by omega) (by omega)
    | succ i =>
      have := ih (Memory.wf_memWrite wf a.toNat v) (a := a + 1) (by omega) (i := i) (by omega)
      rw [memWriteRun, ← addr_succ a i, this, List.getElem_cons_succ]

/-- A run written is the run read, in canonical memory. -/
theorem memReadRun_memWriteRun_self {m : Memory} (wf : Memory.wf m = true) (a : Word) (bs : List Byte)
    (short : bs.length ≤ 2 ^ 32) : memReadRun (memWriteRun m a bs) a bs.length = bs := by
  apply List.ext_getElem?
  intro i
  by_cases h : i < bs.length
  · rw [memReadRun_getElem? _ _ _ _ h, memRead_memWriteRun_self wf short h, List.getElem?_eq_getElem h]
  · rw [List.getElem?_eq_none (by simpa using h), List.getElem?_eq_none (by simpa using h)]

/-- A run read does not see a run written elsewhere. -/
theorem memReadRun_congr {m m' : Memory} {a : Word} {n : Nat}
    (h : ∀ i, i < n → memRead m' (a + BitVec.ofNat 32 i).toNat = memRead m (a + BitVec.ofNat 32 i).toNat) :
    memReadRun m' a n = memReadRun m a n := by
  apply List.ext_getElem?
  intro i
  by_cases hi : i < n
  · rw [memReadRun_getElem? _ _ _ _ hi, memReadRun_getElem? _ _ _ _ hi, h i hi]
  · rw [List.getElem?_eq_none (by simpa using hi), List.getElem?_eq_none (by simpa using hi)]

end Sys2Proof.Machine
end

