-- ==== Sys2Proof/Laws/State.lean ====
section
/-! SUPPORT. What each update of the state leaves as it was, one lemma per field, and what it puts where it writes. -/

namespace Sys2Proof.Machine.State

variable (s : State)

/-! ### setUnit -/

@[simp] theorem setUnit_control (n : StreamId) (u : StreamUnit) :
    (s.setUnit n u).control = s.control := rfl
@[simp] theorem setUnit_general (n : StreamId) (u : StreamUnit) :
    (s.setUnit n u).general = s.general := rfl
@[simp] theorem setUnit_conds (n : StreamId) (u : StreamUnit) :
    (s.setUnit n u).conds = s.conds := rfl
@[simp] theorem setUnit_writePosition (n : StreamId) (u : StreamUnit) :
    (s.setUnit n u).writePosition = s.writePosition := rfl
@[simp] theorem setUnit_port (n : StreamId) (u : StreamUnit) :
    (s.setUnit n u).port = s.port := rfl
@[simp] theorem setUnit_corrections (n : StreamId) (u : StreamUnit) :
    (s.setUnit n u).corrections = s.corrections := rfl
@[simp] theorem setUnit_sweep (n : StreamId) (u : StreamUnit) :
    (s.setUnit n u).sweep = s.sweep := rfl
@[simp] theorem setUnit_sched (n : StreamId) (u : StreamUnit) :
    (s.setUnit n u).sched = s.sched := rfl
@[simp] theorem setUnit_ann (n : StreamId) (u : StreamUnit) :
    (s.setUnit n u).ann = s.ann := rfl
@[simp] theorem setUnit_receiver (n : StreamId) (u : StreamUnit) :
    (s.setUnit n u).receiver = s.receiver := rfl
@[simp] theorem setUnit_engine (n : StreamId) (u : StreamUnit) :
    (s.setUnit n u).engine = s.engine := rfl
@[simp] theorem setUnit_time (n : StreamId) (u : StreamUnit) :
    (s.setUnit n u).time = s.time := rfl
@[simp] theorem setUnit_clock (n : StreamId) (u : StreamUnit) :
    (s.setUnit n u).clock = s.clock := rfl
@[simp] theorem setUnit_mem (n : StreamId) (u : StreamUnit) :
    (s.setUnit n u).mem = s.mem := rfl
@[simp] theorem setUnit_bus (n : StreamId) (u : StreamUnit) :
    (s.setUnit n u).bus = s.bus := rfl
@[simp] theorem setUnit_feedIn (n : StreamId) (u : StreamUnit) :
    (s.setUnit n u).feedIn = s.feedIn := rfl
@[simp] theorem setUnit_pending (n : StreamId) (u : StreamUnit) :
    (s.setUnit n u).pending = s.pending := rfl

/-! ### setLane -/

@[simp] theorem setLane_control (i : LaneId) (l : Option Lane) :
    (s.setLane i l).control = s.control := rfl
@[simp] theorem setLane_general (i : LaneId) (l : Option Lane) :
    (s.setLane i l).general = s.general := rfl
@[simp] theorem setLane_conds (i : LaneId) (l : Option Lane) :
    (s.setLane i l).conds = s.conds := rfl
@[simp] theorem setLane_writePosition (i : LaneId) (l : Option Lane) :
    (s.setLane i l).writePosition = s.writePosition := rfl
@[simp] theorem setLane_port (i : LaneId) (l : Option Lane) :
    (s.setLane i l).port = s.port := rfl
@[simp] theorem setLane_corrections (i : LaneId) (l : Option Lane) :
    (s.setLane i l).corrections = s.corrections := rfl
@[simp] theorem setLane_sweep (i : LaneId) (l : Option Lane) :
    (s.setLane i l).sweep = s.sweep := rfl
@[simp] theorem setLane_units (i : LaneId) (l : Option Lane) :
    (s.setLane i l).units = s.units := rfl
@[simp] theorem setLane_ann (i : LaneId) (l : Option Lane) :
    (s.setLane i l).ann = s.ann := rfl
@[simp] theorem setLane_receiver (i : LaneId) (l : Option Lane) :
    (s.setLane i l).receiver = s.receiver := rfl
@[simp] theorem setLane_engine (i : LaneId) (l : Option Lane) :
    (s.setLane i l).engine = s.engine := rfl
@[simp] theorem setLane_time (i : LaneId) (l : Option Lane) :
    (s.setLane i l).time = s.time := rfl
@[simp] theorem setLane_clock (i : LaneId) (l : Option Lane) :
    (s.setLane i l).clock = s.clock := rfl
@[simp] theorem setLane_mem (i : LaneId) (l : Option Lane) :
    (s.setLane i l).mem = s.mem := rfl
@[simp] theorem setLane_bus (i : LaneId) (l : Option Lane) :
    (s.setLane i l).bus = s.bus := rfl
@[simp] theorem setLane_feedIn (i : LaneId) (l : Option Lane) :
    (s.setLane i l).feedIn = s.feedIn := rfl
@[simp] theorem setLane_pending (i : LaneId) (l : Option Lane) :
    (s.setLane i l).pending = s.pending := rfl

/-! ### setShadow -/

@[simp] theorem setShadow_control (e : ShadowId) (x : Option Shadow) :
    (s.setShadow e x).control = s.control := rfl
@[simp] theorem setShadow_general (e : ShadowId) (x : Option Shadow) :
    (s.setShadow e x).general = s.general := rfl
@[simp] theorem setShadow_conds (e : ShadowId) (x : Option Shadow) :
    (s.setShadow e x).conds = s.conds := rfl
@[simp] theorem setShadow_writePosition (e : ShadowId) (x : Option Shadow) :
    (s.setShadow e x).writePosition = s.writePosition := rfl
@[simp] theorem setShadow_port (e : ShadowId) (x : Option Shadow) :
    (s.setShadow e x).port = s.port := rfl
@[simp] theorem setShadow_corrections (e : ShadowId) (x : Option Shadow) :
    (s.setShadow e x).corrections = s.corrections := rfl
@[simp] theorem setShadow_sweep (e : ShadowId) (x : Option Shadow) :
    (s.setShadow e x).sweep = s.sweep := rfl
@[simp] theorem setShadow_units (e : ShadowId) (x : Option Shadow) :
    (s.setShadow e x).units = s.units := rfl
@[simp] theorem setShadow_ann (e : ShadowId) (x : Option Shadow) :
    (s.setShadow e x).ann = s.ann := rfl
@[simp] theorem setShadow_receiver (e : ShadowId) (x : Option Shadow) :
    (s.setShadow e x).receiver = s.receiver := rfl
@[simp] theorem setShadow_engine (e : ShadowId) (x : Option Shadow) :
    (s.setShadow e x).engine = s.engine := rfl
@[simp] theorem setShadow_time (e : ShadowId) (x : Option Shadow) :
    (s.setShadow e x).time = s.time := rfl
@[simp] theorem setShadow_clock (e : ShadowId) (x : Option Shadow) :
    (s.setShadow e x).clock = s.clock := rfl
@[simp] theorem setShadow_mem (e : ShadowId) (x : Option Shadow) :
    (s.setShadow e x).mem = s.mem := rfl
@[simp] theorem setShadow_bus (e : ShadowId) (x : Option Shadow) :
    (s.setShadow e x).bus = s.bus := rfl
@[simp] theorem setShadow_feedIn (e : ShadowId) (x : Option Shadow) :
    (s.setShadow e x).feedIn = s.feedIn := rfl
@[simp] theorem setShadow_pending (e : ShadowId) (x : Option Shadow) :
    (s.setShadow e x).pending = s.pending := rfl

/-! ### setCommitted -/

@[simp] theorem setCommitted_control (n : StreamId) (k : Nat) :
    (s.setCommitted n k).control = s.control := rfl
@[simp] theorem setCommitted_general (n : StreamId) (k : Nat) :
    (s.setCommitted n k).general = s.general := rfl
@[simp] theorem setCommitted_conds (n : StreamId) (k : Nat) :
    (s.setCommitted n k).conds = s.conds := rfl
@[simp] theorem setCommitted_writePosition (n : StreamId) (k : Nat) :
    (s.setCommitted n k).writePosition = s.writePosition := rfl
@[simp] theorem setCommitted_port (n : StreamId) (k : Nat) :
    (s.setCommitted n k).port = s.port := rfl
@[simp] theorem setCommitted_corrections (n : StreamId) (k : Nat) :
    (s.setCommitted n k).corrections = s.corrections := rfl
@[simp] theorem setCommitted_sweep (n : StreamId) (k : Nat) :
    (s.setCommitted n k).sweep = s.sweep := rfl
@[simp] theorem setCommitted_units (n : StreamId) (k : Nat) :
    (s.setCommitted n k).units = s.units := rfl
@[simp] theorem setCommitted_ann (n : StreamId) (k : Nat) :
    (s.setCommitted n k).ann = s.ann := rfl
@[simp] theorem setCommitted_receiver (n : StreamId) (k : Nat) :
    (s.setCommitted n k).receiver = s.receiver := rfl
@[simp] theorem setCommitted_engine (n : StreamId) (k : Nat) :
    (s.setCommitted n k).engine = s.engine := rfl
@[simp] theorem setCommitted_time (n : StreamId) (k : Nat) :
    (s.setCommitted n k).time = s.time := rfl
@[simp] theorem setCommitted_clock (n : StreamId) (k : Nat) :
    (s.setCommitted n k).clock = s.clock := rfl
@[simp] theorem setCommitted_mem (n : StreamId) (k : Nat) :
    (s.setCommitted n k).mem = s.mem := rfl
@[simp] theorem setCommitted_bus (n : StreamId) (k : Nat) :
    (s.setCommitted n k).bus = s.bus := rfl
@[simp] theorem setCommitted_feedIn (n : StreamId) (k : Nat) :
    (s.setCommitted n k).feedIn = s.feedIn := rfl
@[simp] theorem setCommitted_pending (n : StreamId) (k : Nat) :
    (s.setCommitted n k).pending = s.pending := rfl

/-! ### setPositions -/

@[simp] theorem setPositions_control (n : StreamId) (a : AnnStream) :
    (s.setPositions n a).control = s.control := rfl
@[simp] theorem setPositions_general (n : StreamId) (a : AnnStream) :
    (s.setPositions n a).general = s.general := rfl
@[simp] theorem setPositions_conds (n : StreamId) (a : AnnStream) :
    (s.setPositions n a).conds = s.conds := rfl
@[simp] theorem setPositions_writePosition (n : StreamId) (a : AnnStream) :
    (s.setPositions n a).writePosition = s.writePosition := rfl
@[simp] theorem setPositions_port (n : StreamId) (a : AnnStream) :
    (s.setPositions n a).port = s.port := rfl
@[simp] theorem setPositions_corrections (n : StreamId) (a : AnnStream) :
    (s.setPositions n a).corrections = s.corrections := rfl
@[simp] theorem setPositions_sweep (n : StreamId) (a : AnnStream) :
    (s.setPositions n a).sweep = s.sweep := rfl
@[simp] theorem setPositions_sched (n : StreamId) (a : AnnStream) :
    (s.setPositions n a).sched = s.sched := rfl
@[simp] theorem setPositions_units (n : StreamId) (a : AnnStream) :
    (s.setPositions n a).units = s.units := rfl
@[simp] theorem setPositions_receiver (n : StreamId) (a : AnnStream) :
    (s.setPositions n a).receiver = s.receiver := rfl
@[simp] theorem setPositions_engine (n : StreamId) (a : AnnStream) :
    (s.setPositions n a).engine = s.engine := rfl
@[simp] theorem setPositions_time (n : StreamId) (a : AnnStream) :
    (s.setPositions n a).time = s.time := rfl
@[simp] theorem setPositions_clock (n : StreamId) (a : AnnStream) :
    (s.setPositions n a).clock = s.clock := rfl
@[simp] theorem setPositions_mem (n : StreamId) (a : AnnStream) :
    (s.setPositions n a).mem = s.mem := rfl
@[simp] theorem setPositions_bus (n : StreamId) (a : AnnStream) :
    (s.setPositions n a).bus = s.bus := rfl
@[simp] theorem setPositions_feedIn (n : StreamId) (a : AnnStream) :
    (s.setPositions n a).feedIn = s.feedIn := rfl
@[simp] theorem setPositions_pending (n : StreamId) (a : AnnStream) :
    (s.setPositions n a).pending = s.pending := rfl

/-! ### setAnnouncement -/

@[simp] theorem setAnnouncement_control (e : AnnId) (a : Option Announcement) :
    (s.setAnnouncement e a).control = s.control := rfl
@[simp] theorem setAnnouncement_general (e : AnnId) (a : Option Announcement) :
    (s.setAnnouncement e a).general = s.general := rfl
@[simp] theorem setAnnouncement_conds (e : AnnId) (a : Option Announcement) :
    (s.setAnnouncement e a).conds = s.conds := rfl
@[simp] theorem setAnnouncement_writePosition (e : AnnId) (a : Option Announcement) :
    (s.setAnnouncement e a).writePosition = s.writePosition := rfl
@[simp] theorem setAnnouncement_port (e : AnnId) (a : Option Announcement) :
    (s.setAnnouncement e a).port = s.port := rfl
@[simp] theorem setAnnouncement_corrections (e : AnnId) (a : Option Announcement) :
    (s.setAnnouncement e a).corrections = s.corrections := rfl
@[simp] theorem setAnnouncement_sweep (e : AnnId) (a : Option Announcement) :
    (s.setAnnouncement e a).sweep = s.sweep := rfl
@[simp] theorem setAnnouncement_sched (e : AnnId) (a : Option Announcement) :
    (s.setAnnouncement e a).sched = s.sched := rfl
@[simp] theorem setAnnouncement_units (e : AnnId) (a : Option Announcement) :
    (s.setAnnouncement e a).units = s.units := rfl
@[simp] theorem setAnnouncement_receiver (e : AnnId) (a : Option Announcement) :
    (s.setAnnouncement e a).receiver = s.receiver := rfl
@[simp] theorem setAnnouncement_engine (e : AnnId) (a : Option Announcement) :
    (s.setAnnouncement e a).engine = s.engine := rfl
@[simp] theorem setAnnouncement_time (e : AnnId) (a : Option Announcement) :
    (s.setAnnouncement e a).time = s.time := rfl
@[simp] theorem setAnnouncement_clock (e : AnnId) (a : Option Announcement) :
    (s.setAnnouncement e a).clock = s.clock := rfl
@[simp] theorem setAnnouncement_mem (e : AnnId) (a : Option Announcement) :
    (s.setAnnouncement e a).mem = s.mem := rfl
@[simp] theorem setAnnouncement_bus (e : AnnId) (a : Option Announcement) :
    (s.setAnnouncement e a).bus = s.bus := rfl
@[simp] theorem setAnnouncement_feedIn (e : AnnId) (a : Option Announcement) :
    (s.setAnnouncement e a).feedIn = s.feedIn := rfl
@[simp] theorem setAnnouncement_pending (e : AnnId) (a : Option Announcement) :
    (s.setAnnouncement e a).pending = s.pending := rfl

/-! ### setNotice -/

@[simp] theorem setNotice_control (j : StoreId) (x : StoreEntry) :
    (s.setNotice j x).control = s.control := rfl
@[simp] theorem setNotice_general (j : StoreId) (x : StoreEntry) :
    (s.setNotice j x).general = s.general := rfl
@[simp] theorem setNotice_conds (j : StoreId) (x : StoreEntry) :
    (s.setNotice j x).conds = s.conds := rfl
@[simp] theorem setNotice_writePosition (j : StoreId) (x : StoreEntry) :
    (s.setNotice j x).writePosition = s.writePosition := rfl
@[simp] theorem setNotice_port (j : StoreId) (x : StoreEntry) :
    (s.setNotice j x).port = s.port := rfl
@[simp] theorem setNotice_corrections (j : StoreId) (x : StoreEntry) :
    (s.setNotice j x).corrections = s.corrections := rfl
@[simp] theorem setNotice_sweep (j : StoreId) (x : StoreEntry) :
    (s.setNotice j x).sweep = s.sweep := rfl
@[simp] theorem setNotice_sched (j : StoreId) (x : StoreEntry) :
    (s.setNotice j x).sched = s.sched := rfl
@[simp] theorem setNotice_units (j : StoreId) (x : StoreEntry) :
    (s.setNotice j x).units = s.units := rfl
@[simp] theorem setNotice_ann (j : StoreId) (x : StoreEntry) :
    (s.setNotice j x).ann = s.ann := rfl
@[simp] theorem setNotice_receiver (j : StoreId) (x : StoreEntry) :
    (s.setNotice j x).receiver = s.receiver := rfl
@[simp] theorem setNotice_time (j : StoreId) (x : StoreEntry) :
    (s.setNotice j x).time = s.time := rfl
@[simp] theorem setNotice_clock (j : StoreId) (x : StoreEntry) :
    (s.setNotice j x).clock = s.clock := rfl
@[simp] theorem setNotice_mem (j : StoreId) (x : StoreEntry) :
    (s.setNotice j x).mem = s.mem := rfl
@[simp] theorem setNotice_bus (j : StoreId) (x : StoreEntry) :
    (s.setNotice j x).bus = s.bus := rfl
@[simp] theorem setNotice_feedIn (j : StoreId) (x : StoreEntry) :
    (s.setNotice j x).feedIn = s.feedIn := rfl
@[simp] theorem setNotice_pending (j : StoreId) (x : StoreEntry) :
    (s.setNotice j x).pending = s.pending := rfl

/-! ### raiseInterrupt -/

@[simp] theorem raiseInterrupt_general :
    (s.raiseInterrupt).general = s.general := rfl
@[simp] theorem raiseInterrupt_conds :
    (s.raiseInterrupt).conds = s.conds := rfl
@[simp] theorem raiseInterrupt_writePosition :
    (s.raiseInterrupt).writePosition = s.writePosition := rfl
@[simp] theorem raiseInterrupt_port :
    (s.raiseInterrupt).port = s.port := rfl
@[simp] theorem raiseInterrupt_corrections :
    (s.raiseInterrupt).corrections = s.corrections := rfl
@[simp] theorem raiseInterrupt_sweep :
    (s.raiseInterrupt).sweep = s.sweep := rfl
@[simp] theorem raiseInterrupt_sched :
    (s.raiseInterrupt).sched = s.sched := rfl
@[simp] theorem raiseInterrupt_units :
    (s.raiseInterrupt).units = s.units := rfl
@[simp] theorem raiseInterrupt_ann :
    (s.raiseInterrupt).ann = s.ann := rfl
@[simp] theorem raiseInterrupt_receiver :
    (s.raiseInterrupt).receiver = s.receiver := rfl
@[simp] theorem raiseInterrupt_engine :
    (s.raiseInterrupt).engine = s.engine := rfl
@[simp] theorem raiseInterrupt_time :
    (s.raiseInterrupt).time = s.time := rfl
@[simp] theorem raiseInterrupt_clock :
    (s.raiseInterrupt).clock = s.clock := rfl
@[simp] theorem raiseInterrupt_mem :
    (s.raiseInterrupt).mem = s.mem := rfl
@[simp] theorem raiseInterrupt_bus :
    (s.raiseInterrupt).bus = s.bus := rfl
@[simp] theorem raiseInterrupt_feedIn :
    (s.raiseInterrupt).feedIn = s.feedIn := rfl
@[simp] theorem raiseInterrupt_pending :
    (s.raiseInterrupt).pending = s.pending := rfl

/-! ### dropEnd -/

@[simp] theorem dropEnd_control :
    (s.dropEnd).control = s.control := rfl
@[simp] theorem dropEnd_general :
    (s.dropEnd).general = s.general := rfl
@[simp] theorem dropEnd_conds :
    (s.dropEnd).conds = s.conds := rfl
@[simp] theorem dropEnd_writePosition :
    (s.dropEnd).writePosition = s.writePosition := rfl
@[simp] theorem dropEnd_port :
    (s.dropEnd).port = s.port := rfl
@[simp] theorem dropEnd_corrections :
    (s.dropEnd).corrections = s.corrections := rfl
@[simp] theorem dropEnd_sweep :
    (s.dropEnd).sweep = s.sweep := rfl
@[simp] theorem dropEnd_sched :
    (s.dropEnd).sched = s.sched := rfl
@[simp] theorem dropEnd_units :
    (s.dropEnd).units = s.units := rfl
@[simp] theorem dropEnd_ann :
    (s.dropEnd).ann = s.ann := rfl
@[simp] theorem dropEnd_receiver :
    (s.dropEnd).receiver = s.receiver := rfl
@[simp] theorem dropEnd_engine :
    (s.dropEnd).engine = s.engine := rfl
@[simp] theorem dropEnd_time :
    (s.dropEnd).time = s.time := rfl
@[simp] theorem dropEnd_clock :
    (s.dropEnd).clock = s.clock := rfl
@[simp] theorem dropEnd_mem :
    (s.dropEnd).mem = s.mem := rfl
@[simp] theorem dropEnd_feedIn :
    (s.dropEnd).feedIn = s.feedIn := rfl
@[simp] theorem dropEnd_pending :
    (s.dropEnd).pending = s.pending := rfl

/-! ### beginBus -/

@[simp] theorem beginBus_control (env : Env) :
    (s.beginBus env).control = s.control := rfl
@[simp] theorem beginBus_general (env : Env) :
    (s.beginBus env).general = s.general := rfl
@[simp] theorem beginBus_conds (env : Env) :
    (s.beginBus env).conds = s.conds := rfl
@[simp] theorem beginBus_writePosition (env : Env) :
    (s.beginBus env).writePosition = s.writePosition := rfl
@[simp] theorem beginBus_port (env : Env) :
    (s.beginBus env).port = s.port := rfl
@[simp] theorem beginBus_corrections (env : Env) :
    (s.beginBus env).corrections = s.corrections := rfl
@[simp] theorem beginBus_sweep (env : Env) :
    (s.beginBus env).sweep = s.sweep := rfl
@[simp] theorem beginBus_sched (env : Env) :
    (s.beginBus env).sched = s.sched := rfl
@[simp] theorem beginBus_units (env : Env) :
    (s.beginBus env).units = s.units := rfl
@[simp] theorem beginBus_ann (env : Env) :
    (s.beginBus env).ann = s.ann := rfl
@[simp] theorem beginBus_receiver (env : Env) :
    (s.beginBus env).receiver = s.receiver := rfl
@[simp] theorem beginBus_engine (env : Env) :
    (s.beginBus env).engine = s.engine := rfl
@[simp] theorem beginBus_time (env : Env) :
    (s.beginBus env).time = s.time := rfl
@[simp] theorem beginBus_clock (env : Env) :
    (s.beginBus env).clock = s.clock := rfl
@[simp] theorem beginBus_feedIn (env : Env) :
    (s.beginBus env).feedIn = s.feedIn := rfl
@[simp] theorem beginBus_pending (env : Env) :
    (s.beginBus env).pending = s.pending := rfl

/-! ### endBus -/

@[simp] theorem endBus_control :
    (s.endBus).control = s.control := rfl
@[simp] theorem endBus_general :
    (s.endBus).general = s.general := rfl
@[simp] theorem endBus_conds :
    (s.endBus).conds = s.conds := rfl
@[simp] theorem endBus_writePosition :
    (s.endBus).writePosition = s.writePosition := rfl
@[simp] theorem endBus_port :
    (s.endBus).port = s.port := rfl
@[simp] theorem endBus_corrections :
    (s.endBus).corrections = s.corrections := rfl
@[simp] theorem endBus_sweep :
    (s.endBus).sweep = s.sweep := rfl
@[simp] theorem endBus_sched :
    (s.endBus).sched = s.sched := rfl
@[simp] theorem endBus_units :
    (s.endBus).units = s.units := rfl
@[simp] theorem endBus_ann :
    (s.endBus).ann = s.ann := rfl
@[simp] theorem endBus_receiver :
    (s.endBus).receiver = s.receiver := rfl
@[simp] theorem endBus_engine :
    (s.endBus).engine = s.engine := rfl
@[simp] theorem endBus_time :
    (s.endBus).time = s.time := rfl
@[simp] theorem endBus_clock :
    (s.endBus).clock = s.clock := rfl
@[simp] theorem endBus_mem :
    (s.endBus).mem = s.mem := rfl
@[simp] theorem endBus_feedIn :
    (s.endBus).feedIn = s.feedIn := rfl
@[simp] theorem endBus_pending :
    (s.endBus).pending = s.pending := rfl

/-! ### bumpLog -/

@[simp] theorem bumpLog_control :
    (s.bumpLog).control = s.control := rfl
@[simp] theorem bumpLog_general :
    (s.bumpLog).general = s.general := rfl
@[simp] theorem bumpLog_conds :
    (s.bumpLog).conds = s.conds := rfl
@[simp] theorem bumpLog_port :
    (s.bumpLog).port = s.port := rfl
@[simp] theorem bumpLog_corrections :
    (s.bumpLog).corrections = s.corrections := rfl
@[simp] theorem bumpLog_sweep :
    (s.bumpLog).sweep = s.sweep := rfl
@[simp] theorem bumpLog_sched :
    (s.bumpLog).sched = s.sched := rfl
@[simp] theorem bumpLog_units :
    (s.bumpLog).units = s.units := rfl
@[simp] theorem bumpLog_ann :
    (s.bumpLog).ann = s.ann := rfl
@[simp] theorem bumpLog_receiver :
    (s.bumpLog).receiver = s.receiver := rfl
@[simp] theorem bumpLog_engine :
    (s.bumpLog).engine = s.engine := rfl
@[simp] theorem bumpLog_time :
    (s.bumpLog).time = s.time := rfl
@[simp] theorem bumpLog_clock :
    (s.bumpLog).clock = s.clock := rfl
@[simp] theorem bumpLog_mem :
    (s.bumpLog).mem = s.mem := rfl
@[simp] theorem bumpLog_bus :
    (s.bumpLog).bus = s.bus := rfl
@[simp] theorem bumpLog_feedIn :
    (s.bumpLog).feedIn = s.feedIn := rfl
@[simp] theorem bumpLog_pending :
    (s.bumpLog).pending = s.pending := rfl

/-! ### cause -/

@[simp] theorem cause_control (c : Condition) (w : FaultWhere) :
    (s.cause c w).control = s.control := rfl
@[simp] theorem cause_general (c : Condition) (w : FaultWhere) :
    (s.cause c w).general = s.general := rfl
@[simp] theorem cause_writePosition (c : Condition) (w : FaultWhere) :
    (s.cause c w).writePosition = s.writePosition := rfl
@[simp] theorem cause_port (c : Condition) (w : FaultWhere) :
    (s.cause c w).port = s.port := rfl
@[simp] theorem cause_corrections (c : Condition) (w : FaultWhere) :
    (s.cause c w).corrections = s.corrections := rfl
@[simp] theorem cause_sweep (c : Condition) (w : FaultWhere) :
    (s.cause c w).sweep = s.sweep := rfl
@[simp] theorem cause_sched (c : Condition) (w : FaultWhere) :
    (s.cause c w).sched = s.sched := rfl
@[simp] theorem cause_units (c : Condition) (w : FaultWhere) :
    (s.cause c w).units = s.units := rfl
@[simp] theorem cause_ann (c : Condition) (w : FaultWhere) :
    (s.cause c w).ann = s.ann := rfl
@[simp] theorem cause_receiver (c : Condition) (w : FaultWhere) :
    (s.cause c w).receiver = s.receiver := rfl
@[simp] theorem cause_engine (c : Condition) (w : FaultWhere) :
    (s.cause c w).engine = s.engine := rfl
@[simp] theorem cause_time (c : Condition) (w : FaultWhere) :
    (s.cause c w).time = s.time := rfl
@[simp] theorem cause_clock (c : Condition) (w : FaultWhere) :
    (s.cause c w).clock = s.clock := rfl
@[simp] theorem cause_mem (c : Condition) (w : FaultWhere) :
    (s.cause c w).mem = s.mem := rfl
@[simp] theorem cause_bus (c : Condition) (w : FaultWhere) :
    (s.cause c w).bus = s.bus := rfl
@[simp] theorem cause_feedIn (c : Condition) (w : FaultWhere) :
    (s.cause c w).feedIn = s.feedIn := rfl
@[simp] theorem cause_pending (c : Condition) (w : FaultWhere) :
    (s.cause c w).pending = s.pending := rfl

/-! ### setNote -/

@[simp] theorem setNote_control (k : SlotId) (x : Note) :
    (s.setNote k x).control = s.control := rfl
@[simp] theorem setNote_general (k : SlotId) (x : Note) :
    (s.setNote k x).general = s.general := rfl
@[simp] theorem setNote_conds (k : SlotId) (x : Note) :
    (s.setNote k x).conds = s.conds := rfl
@[simp] theorem setNote_writePosition (k : SlotId) (x : Note) :
    (s.setNote k x).writePosition = s.writePosition := rfl
@[simp] theorem setNote_port (k : SlotId) (x : Note) :
    (s.setNote k x).port = s.port := rfl
@[simp] theorem setNote_corrections (k : SlotId) (x : Note) :
    (s.setNote k x).corrections = s.corrections := rfl
@[simp] theorem setNote_sched (k : SlotId) (x : Note) :
    (s.setNote k x).sched = s.sched := rfl
@[simp] theorem setNote_units (k : SlotId) (x : Note) :
    (s.setNote k x).units = s.units := rfl
@[simp] theorem setNote_ann (k : SlotId) (x : Note) :
    (s.setNote k x).ann = s.ann := rfl
@[simp] theorem setNote_receiver (k : SlotId) (x : Note) :
    (s.setNote k x).receiver = s.receiver := rfl
@[simp] theorem setNote_engine (k : SlotId) (x : Note) :
    (s.setNote k x).engine = s.engine := rfl
@[simp] theorem setNote_time (k : SlotId) (x : Note) :
    (s.setNote k x).time = s.time := rfl
@[simp] theorem setNote_clock (k : SlotId) (x : Note) :
    (s.setNote k x).clock = s.clock := rfl
@[simp] theorem setNote_mem (k : SlotId) (x : Note) :
    (s.setNote k x).mem = s.mem := rfl
@[simp] theorem setNote_bus (k : SlotId) (x : Note) :
    (s.setNote k x).bus = s.bus := rfl
@[simp] theorem setNote_feedIn (k : SlotId) (x : Note) :
    (s.setNote k x).feedIn = s.feedIn := rfl
@[simp] theorem setNote_pending (k : SlotId) (x : Note) :
    (s.setNote k x).pending = s.pending := rfl

/-! ### setPart -/

@[simp] theorem setPart_general (p : PartState) :
    (s.setPart p).general = s.general := rfl
@[simp] theorem setPart_conds (p : PartState) :
    (s.setPart p).conds = s.conds := rfl
@[simp] theorem setPart_writePosition (p : PartState) :
    (s.setPart p).writePosition = s.writePosition := rfl
@[simp] theorem setPart_port (p : PartState) :
    (s.setPart p).port = s.port := rfl
@[simp] theorem setPart_corrections (p : PartState) :
    (s.setPart p).corrections = s.corrections := rfl
@[simp] theorem setPart_sweep (p : PartState) :
    (s.setPart p).sweep = s.sweep := rfl
@[simp] theorem setPart_sched (p : PartState) :
    (s.setPart p).sched = s.sched := rfl
@[simp] theorem setPart_units (p : PartState) :
    (s.setPart p).units = s.units := rfl
@[simp] theorem setPart_ann (p : PartState) :
    (s.setPart p).ann = s.ann := rfl
@[simp] theorem setPart_receiver (p : PartState) :
    (s.setPart p).receiver = s.receiver := rfl
@[simp] theorem setPart_engine (p : PartState) :
    (s.setPart p).engine = s.engine := rfl
@[simp] theorem setPart_time (p : PartState) :
    (s.setPart p).time = s.time := rfl
@[simp] theorem setPart_clock (p : PartState) :
    (s.setPart p).clock = s.clock := rfl
@[simp] theorem setPart_mem (p : PartState) :
    (s.setPart p).mem = s.mem := rfl
@[simp] theorem setPart_bus (p : PartState) :
    (s.setPart p).bus = s.bus := rfl
@[simp] theorem setPart_feedIn (p : PartState) :
    (s.setPart p).feedIn = s.feedIn := rfl
@[simp] theorem setPart_pending (p : PartState) :
    (s.setPart p).pending = s.pending := rfl

/-! ### accept -/

@[simp] theorem accept_general :
    (s.accept).general = s.general := rfl
@[simp] theorem accept_conds :
    (s.accept).conds = s.conds := rfl
@[simp] theorem accept_writePosition :
    (s.accept).writePosition = s.writePosition := rfl
@[simp] theorem accept_port :
    (s.accept).port = s.port := rfl
@[simp] theorem accept_corrections :
    (s.accept).corrections = s.corrections := rfl
@[simp] theorem accept_sweep :
    (s.accept).sweep = s.sweep := rfl
@[simp] theorem accept_sched :
    (s.accept).sched = s.sched := rfl
@[simp] theorem accept_units :
    (s.accept).units = s.units := rfl
@[simp] theorem accept_ann :
    (s.accept).ann = s.ann := rfl
@[simp] theorem accept_receiver :
    (s.accept).receiver = s.receiver := rfl
@[simp] theorem accept_engine :
    (s.accept).engine = s.engine := rfl
@[simp] theorem accept_time :
    (s.accept).time = s.time := rfl
@[simp] theorem accept_clock :
    (s.accept).clock = s.clock := rfl
@[simp] theorem accept_mem :
    (s.accept).mem = s.mem := rfl
@[simp] theorem accept_bus :
    (s.accept).bus = s.bus := rfl
@[simp] theorem accept_feedIn :
    (s.accept).feedIn = s.feedIn := rfl
@[simp] theorem accept_pending :
    (s.accept).pending = s.pending := rfl

/-! ### refuse -/

@[simp] theorem refuse_general :
    (s.refuse).general = s.general := rfl
@[simp] theorem refuse_conds :
    (s.refuse).conds = s.conds := rfl
@[simp] theorem refuse_writePosition :
    (s.refuse).writePosition = s.writePosition := rfl
@[simp] theorem refuse_port :
    (s.refuse).port = s.port := rfl
@[simp] theorem refuse_corrections :
    (s.refuse).corrections = s.corrections := rfl
@[simp] theorem refuse_sweep :
    (s.refuse).sweep = s.sweep := rfl
@[simp] theorem refuse_sched :
    (s.refuse).sched = s.sched := rfl
@[simp] theorem refuse_units :
    (s.refuse).units = s.units := rfl
@[simp] theorem refuse_ann :
    (s.refuse).ann = s.ann := rfl
@[simp] theorem refuse_receiver :
    (s.refuse).receiver = s.receiver := rfl
@[simp] theorem refuse_engine :
    (s.refuse).engine = s.engine := rfl
@[simp] theorem refuse_time :
    (s.refuse).time = s.time := rfl
@[simp] theorem refuse_clock :
    (s.refuse).clock = s.clock := rfl
@[simp] theorem refuse_mem :
    (s.refuse).mem = s.mem := rfl
@[simp] theorem refuse_bus :
    (s.refuse).bus = s.bus := rfl
@[simp] theorem refuse_feedIn :
    (s.refuse).feedIn = s.feedIn := rfl
@[simp] theorem refuse_pending :
    (s.refuse).pending = s.pending := rfl

/-! ### setReloading -/

@[simp] theorem setReloading_general (b : Bool) :
    (s.setReloading b).general = s.general := rfl
@[simp] theorem setReloading_conds (b : Bool) :
    (s.setReloading b).conds = s.conds := rfl
@[simp] theorem setReloading_writePosition (b : Bool) :
    (s.setReloading b).writePosition = s.writePosition := rfl
@[simp] theorem setReloading_port (b : Bool) :
    (s.setReloading b).port = s.port := rfl
@[simp] theorem setReloading_corrections (b : Bool) :
    (s.setReloading b).corrections = s.corrections := rfl
@[simp] theorem setReloading_sweep (b : Bool) :
    (s.setReloading b).sweep = s.sweep := rfl
@[simp] theorem setReloading_sched (b : Bool) :
    (s.setReloading b).sched = s.sched := rfl
@[simp] theorem setReloading_units (b : Bool) :
    (s.setReloading b).units = s.units := rfl
@[simp] theorem setReloading_ann (b : Bool) :
    (s.setReloading b).ann = s.ann := rfl
@[simp] theorem setReloading_receiver (b : Bool) :
    (s.setReloading b).receiver = s.receiver := rfl
@[simp] theorem setReloading_engine (b : Bool) :
    (s.setReloading b).engine = s.engine := rfl
@[simp] theorem setReloading_time (b : Bool) :
    (s.setReloading b).time = s.time := rfl
@[simp] theorem setReloading_clock (b : Bool) :
    (s.setReloading b).clock = s.clock := rfl
@[simp] theorem setReloading_mem (b : Bool) :
    (s.setReloading b).mem = s.mem := rfl
@[simp] theorem setReloading_bus (b : Bool) :
    (s.setReloading b).bus = s.bus := rfl
@[simp] theorem setReloading_feedIn (b : Bool) :
    (s.setReloading b).feedIn = s.feedIn := rfl
@[simp] theorem setReloading_pending (b : Bool) :
    (s.setReloading b).pending = s.pending := rfl

/-! ### clearPolls -/

@[simp] theorem clearPolls_control :
    (s.clearPolls).control = s.control := rfl
@[simp] theorem clearPolls_general :
    (s.clearPolls).general = s.general := rfl
@[simp] theorem clearPolls_conds :
    (s.clearPolls).conds = s.conds := rfl
@[simp] theorem clearPolls_writePosition :
    (s.clearPolls).writePosition = s.writePosition := rfl
@[simp] theorem clearPolls_port :
    (s.clearPolls).port = s.port := rfl
@[simp] theorem clearPolls_corrections :
    (s.clearPolls).corrections = s.corrections := rfl
@[simp] theorem clearPolls_sweep :
    (s.clearPolls).sweep = s.sweep := rfl
@[simp] theorem clearPolls_sched :
    (s.clearPolls).sched = s.sched := rfl
@[simp] theorem clearPolls_units :
    (s.clearPolls).units = s.units := rfl
@[simp] theorem clearPolls_ann :
    (s.clearPolls).ann = s.ann := rfl
@[simp] theorem clearPolls_receiver :
    (s.clearPolls).receiver = s.receiver := rfl
@[simp] theorem clearPolls_engine :
    (s.clearPolls).engine = s.engine := rfl
@[simp] theorem clearPolls_clock :
    (s.clearPolls).clock = s.clock := rfl
@[simp] theorem clearPolls_mem :
    (s.clearPolls).mem = s.mem := rfl
@[simp] theorem clearPolls_bus :
    (s.clearPolls).bus = s.bus := rfl
@[simp] theorem clearPolls_feedIn :
    (s.clearPolls).feedIn = s.feedIn := rfl
@[simp] theorem clearPolls_pending :
    (s.clearPolls).pending = s.pending := rfl

/-! ### setReceiver -/

@[simp] theorem setReceiver_control (r : ReceiverState) (x : BitVec 4) (bs : List Byte) :
    (s.setReceiver r x bs).control = s.control := rfl
@[simp] theorem setReceiver_general (r : ReceiverState) (x : BitVec 4) (bs : List Byte) :
    (s.setReceiver r x bs).general = s.general := rfl
@[simp] theorem setReceiver_conds (r : ReceiverState) (x : BitVec 4) (bs : List Byte) :
    (s.setReceiver r x bs).conds = s.conds := rfl
@[simp] theorem setReceiver_writePosition (r : ReceiverState) (x : BitVec 4) (bs : List Byte) :
    (s.setReceiver r x bs).writePosition = s.writePosition := rfl
@[simp] theorem setReceiver_port (r : ReceiverState) (x : BitVec 4) (bs : List Byte) :
    (s.setReceiver r x bs).port = s.port := rfl
@[simp] theorem setReceiver_corrections (r : ReceiverState) (x : BitVec 4) (bs : List Byte) :
    (s.setReceiver r x bs).corrections = s.corrections := rfl
@[simp] theorem setReceiver_sweep (r : ReceiverState) (x : BitVec 4) (bs : List Byte) :
    (s.setReceiver r x bs).sweep = s.sweep := rfl
@[simp] theorem setReceiver_sched (r : ReceiverState) (x : BitVec 4) (bs : List Byte) :
    (s.setReceiver r x bs).sched = s.sched := rfl
@[simp] theorem setReceiver_units (r : ReceiverState) (x : BitVec 4) (bs : List Byte) :
    (s.setReceiver r x bs).units = s.units := rfl
@[simp] theorem setReceiver_ann (r : ReceiverState) (x : BitVec 4) (bs : List Byte) :
    (s.setReceiver r x bs).ann = s.ann := rfl
@[simp] theorem setReceiver_engine (r : ReceiverState) (x : BitVec 4) (bs : List Byte) :
    (s.setReceiver r x bs).engine = s.engine := rfl
@[simp] theorem setReceiver_time (r : ReceiverState) (x : BitVec 4) (bs : List Byte) :
    (s.setReceiver r x bs).time = s.time := rfl
@[simp] theorem setReceiver_clock (r : ReceiverState) (x : BitVec 4) (bs : List Byte) :
    (s.setReceiver r x bs).clock = s.clock := rfl
@[simp] theorem setReceiver_mem (r : ReceiverState) (x : BitVec 4) (bs : List Byte) :
    (s.setReceiver r x bs).mem = s.mem := rfl
@[simp] theorem setReceiver_bus (r : ReceiverState) (x : BitVec 4) (bs : List Byte) :
    (s.setReceiver r x bs).bus = s.bus := rfl
@[simp] theorem setReceiver_feedIn (r : ReceiverState) (x : BitVec 4) (bs : List Byte) :
    (s.setReceiver r x bs).feedIn = s.feedIn := rfl
@[simp] theorem setReceiver_pending (r : ReceiverState) (x : BitVec 4) (bs : List Byte) :
    (s.setReceiver r x bs).pending = s.pending := rfl

/-! ### setFeed -/

@[simp] theorem setFeed_control (f : FeedState) :
    (s.setFeed f).control = s.control := rfl
@[simp] theorem setFeed_general (f : FeedState) :
    (s.setFeed f).general = s.general := rfl
@[simp] theorem setFeed_conds (f : FeedState) :
    (s.setFeed f).conds = s.conds := rfl
@[simp] theorem setFeed_writePosition (f : FeedState) :
    (s.setFeed f).writePosition = s.writePosition := rfl
@[simp] theorem setFeed_port (f : FeedState) :
    (s.setFeed f).port = s.port := rfl
@[simp] theorem setFeed_corrections (f : FeedState) :
    (s.setFeed f).corrections = s.corrections := rfl
@[simp] theorem setFeed_sweep (f : FeedState) :
    (s.setFeed f).sweep = s.sweep := rfl
@[simp] theorem setFeed_sched (f : FeedState) :
    (s.setFeed f).sched = s.sched := rfl
@[simp] theorem setFeed_units (f : FeedState) :
    (s.setFeed f).units = s.units := rfl
@[simp] theorem setFeed_ann (f : FeedState) :
    (s.setFeed f).ann = s.ann := rfl
@[simp] theorem setFeed_engine (f : FeedState) :
    (s.setFeed f).engine = s.engine := rfl
@[simp] theorem setFeed_time (f : FeedState) :
    (s.setFeed f).time = s.time := rfl
@[simp] theorem setFeed_clock (f : FeedState) :
    (s.setFeed f).clock = s.clock := rfl
@[simp] theorem setFeed_mem (f : FeedState) :
    (s.setFeed f).mem = s.mem := rfl
@[simp] theorem setFeed_bus (f : FeedState) :
    (s.setFeed f).bus = s.bus := rfl
@[simp] theorem setFeed_feedIn (f : FeedState) :
    (s.setFeed f).feedIn = s.feedIn := rfl
@[simp] theorem setFeed_pending (f : FeedState) :
    (s.setFeed f).pending = s.pending := rfl

/-! ### setClock -/

@[simp] theorem setClock_control (o : Origin) (t : Word) :
    (s.setClock o t).control = s.control := rfl
@[simp] theorem setClock_general (o : Origin) (t : Word) :
    (s.setClock o t).general = s.general := rfl
@[simp] theorem setClock_conds (o : Origin) (t : Word) :
    (s.setClock o t).conds = s.conds := rfl
@[simp] theorem setClock_writePosition (o : Origin) (t : Word) :
    (s.setClock o t).writePosition = s.writePosition := rfl
@[simp] theorem setClock_port (o : Origin) (t : Word) :
    (s.setClock o t).port = s.port := rfl
@[simp] theorem setClock_corrections (o : Origin) (t : Word) :
    (s.setClock o t).corrections = s.corrections := rfl
@[simp] theorem setClock_sweep (o : Origin) (t : Word) :
    (s.setClock o t).sweep = s.sweep := rfl
@[simp] theorem setClock_sched (o : Origin) (t : Word) :
    (s.setClock o t).sched = s.sched := rfl
@[simp] theorem setClock_units (o : Origin) (t : Word) :
    (s.setClock o t).units = s.units := rfl
@[simp] theorem setClock_ann (o : Origin) (t : Word) :
    (s.setClock o t).ann = s.ann := rfl
@[simp] theorem setClock_receiver (o : Origin) (t : Word) :
    (s.setClock o t).receiver = s.receiver := rfl
@[simp] theorem setClock_engine (o : Origin) (t : Word) :
    (s.setClock o t).engine = s.engine := rfl
@[simp] theorem setClock_time (o : Origin) (t : Word) :
    (s.setClock o t).time = s.time := rfl
@[simp] theorem setClock_mem (o : Origin) (t : Word) :
    (s.setClock o t).mem = s.mem := rfl
@[simp] theorem setClock_bus (o : Origin) (t : Word) :
    (s.setClock o t).bus = s.bus := rfl
@[simp] theorem setClock_feedIn (o : Origin) (t : Word) :
    (s.setClock o t).feedIn = s.feedIn := rfl
@[simp] theorem setClock_pending (o : Origin) (t : Word) :
    (s.setClock o t).pending = s.pending := rfl

/-! ### setOffset -/

@[simp] theorem setOffset_control (k : Int) :
    (s.setOffset k).control = s.control := rfl
@[simp] theorem setOffset_general (k : Int) :
    (s.setOffset k).general = s.general := rfl
@[simp] theorem setOffset_conds (k : Int) :
    (s.setOffset k).conds = s.conds := rfl
@[simp] theorem setOffset_writePosition (k : Int) :
    (s.setOffset k).writePosition = s.writePosition := rfl
@[simp] theorem setOffset_port (k : Int) :
    (s.setOffset k).port = s.port := rfl
@[simp] theorem setOffset_corrections (k : Int) :
    (s.setOffset k).corrections = s.corrections := rfl
@[simp] theorem setOffset_sweep (k : Int) :
    (s.setOffset k).sweep = s.sweep := rfl
@[simp] theorem setOffset_sched (k : Int) :
    (s.setOffset k).sched = s.sched := rfl
@[simp] theorem setOffset_units (k : Int) :
    (s.setOffset k).units = s.units := rfl
@[simp] theorem setOffset_ann (k : Int) :
    (s.setOffset k).ann = s.ann := rfl
@[simp] theorem setOffset_receiver (k : Int) :
    (s.setOffset k).receiver = s.receiver := rfl
@[simp] theorem setOffset_engine (k : Int) :
    (s.setOffset k).engine = s.engine := rfl
@[simp] theorem setOffset_time (k : Int) :
    (s.setOffset k).time = s.time := rfl
@[simp] theorem setOffset_mem (k : Int) :
    (s.setOffset k).mem = s.mem := rfl
@[simp] theorem setOffset_bus (k : Int) :
    (s.setOffset k).bus = s.bus := rfl
@[simp] theorem setOffset_feedIn (k : Int) :
    (s.setOffset k).feedIn = s.feedIn := rfl
@[simp] theorem setOffset_pending (k : Int) :
    (s.setOffset k).pending = s.pending := rfl

/-! ### Values read back -/

@[simp] theorem raiseInterrupt_control : s.raiseInterrupt.control = { s.control with interrupt := true } := rfl
@[simp] theorem dropEnd_bus : s.dropEnd.bus = s.bus.tail := rfl
@[simp] theorem beginBus_mem (env : Env) : (s.beginBus env).mem = memHostWrites s.mem env.hostWrites := rfl
@[simp] theorem beginBus_bus (env : Env) : (s.beginBus env).bus = env.berr := rfl
@[simp] theorem endBus_bus : s.endBus.bus = [] := rfl
@[simp] theorem bumpLog_writePosition : s.bumpLog.writePosition = s.writePosition + 1 := rfl
@[simp] theorem setPart_control (p : PartState) : (s.setPart p).control = { s.control with part := p } := rfl
@[simp] theorem accept_control : s.accept.control = { s.control with refused := false } := rfl
@[simp] theorem refuse_control : s.refuse.control = { s.control with refused := true } := rfl
@[simp] theorem setReloading_control (b : Bool) :
    (s.setReloading b).control = { s.control with reloading := b } := rfl
@[simp] theorem setFeed_receiver (f : FeedState) : (s.setFeed f).receiver = { s.receiver with feed := f } := rfl
@[simp] theorem setReceiver_receiver (r : ReceiverState) (x : BitVec 4) (bs : List Byte) :
    (s.setReceiver r x bs).receiver = { s.receiver with state := r, matched := x, assembly := bs } := rfl
@[simp] theorem setClock_clock (o : Origin) (t : Word) :
    (s.setClock o t).clock = { s.clock with origin := some o, time := t } := rfl
@[simp] theorem setOffset_clock (k : Int) : (s.setOffset k).clock = { s.clock with offset := k } := rfl
@[simp] theorem cause_flags (c : Condition) (w : FaultWhere) :
    (s.cause c w).conds.flags = s.conds.flags ||| c.bit := rfl
@[simp] theorem cause_haltMask (c : Condition) (w : FaultWhere) :
    (s.cause c w).conds.haltMask = s.conds.haltMask := rfl
@[simp] theorem cause_haltCause (c : Condition) (w : FaultWhere) :
    (s.cause c w).conds.haltCause = s.conds.haltCause := rfl
theorem cause_haltPending (c : Condition) (w : FaultWhere) :
    (s.cause c w).conds.haltPending = if s.halts c then some (s.capture c w) else s.conds.haltPending := rfl

@[simp] theorem causeIf_true (c : Condition) (w : FaultWhere) : s.causeIf true c w = s.cause c w := rfl
@[simp] theorem causeIf_false (c : Condition) (w : FaultWhere) : s.causeIf false c w = s := rfl

@[simp] theorem unit_setUnit_self (n : StreamId) (u : StreamUnit) : (s.setUnit n u).unit n = u := by
  simp [unit, setUnit]
theorem unit_setUnit_ne {n m : StreamId} (u : StreamUnit) (h : n ≠ m) : (s.setUnit n u).unit m = s.unit m := by
  simp only [unit, setUnit, Fin.getElem_fin]
  exact Vector.getElem_set_ne _ _ (fun e => h (Fin.ext e))
@[simp] theorem lane_setLane_self (i : LaneId) (l : Option Lane) : (s.setLane i l).lane i = l := by
  simp [lane, setLane]
theorem lane_setLane_ne {i j : LaneId} (l : Option Lane) (h : i ≠ j) : (s.setLane i l).lane j = s.lane j := by
  simp only [lane, setLane, Fin.getElem_fin]
  exact Vector.getElem_set_ne _ _ (fun e => h (Fin.ext e))
@[simp] theorem shadowAt_setShadow_self (e : ShadowId) (x : Option Shadow) : (s.setShadow e x).shadowAt e = x := by
  simp [shadowAt, setShadow]
theorem shadowAt_setShadow_ne {e f : ShadowId} (x : Option Shadow) (h : e ≠ f) :
    (s.setShadow e x).shadowAt f = s.shadowAt f := by
  simp only [shadowAt, setShadow, Fin.getElem_fin]
  exact Vector.getElem_set_ne _ _ (fun k => h (Fin.ext k))
@[simp] theorem committed_setCommitted_self (n : StreamId) (k : Nat) : (s.setCommitted n k).committed n = k := by
  simp [committed, setCommitted]
theorem committed_setCommitted_ne {n m : StreamId} (k : Nat) (h : n ≠ m) :
    (s.setCommitted n k).committed m = s.committed m := by
  simp only [committed, setCommitted, Fin.getElem_fin]
  exact Vector.getElem_set_ne _ _ (fun e => h (Fin.ext e))
@[simp] theorem positions_setPositions_self (n : StreamId) (a : AnnStream) :
    (s.setPositions n a).positions n = a := by
  simp [positions, setPositions]
theorem positions_setPositions_ne {n m : StreamId} (a : AnnStream) (h : n ≠ m) :
    (s.setPositions n a).positions m = s.positions m := by
  simp only [positions, setPositions, Fin.getElem_fin]
  exact Vector.getElem_set_ne _ _ (fun e => h (Fin.ext e))
@[simp] theorem announcement_setAnnouncement_self (e : AnnId) (a : Option Announcement) :
    (s.setAnnouncement e a).announcement e = a := by
  simp [announcement, setAnnouncement]
theorem announcement_setAnnouncement_ne {e f : AnnId} (a : Option Announcement) (h : e ≠ f) :
    (s.setAnnouncement e a).announcement f = s.announcement f := by
  simp only [announcement, setAnnouncement, Fin.getElem_fin]
  exact Vector.getElem_set_ne _ _ (fun k => h (Fin.ext k))
@[simp] theorem notice_setNotice_self (j : StoreId) (x : StoreEntry) : (s.setNotice j x).notice j = x := by
  simp [notice, setNotice]
theorem notice_setNotice_ne {j k : StoreId} (x : StoreEntry) (h : j ≠ k) :
    (s.setNotice j x).notice k = s.notice k := by
  simp only [notice, setNotice, Fin.getElem_fin]
  exact Vector.getElem_set_ne _ _ (fun e => h (Fin.ext e))

/-! ### Views that an update does not move -/

@[simp] theorem lane_setShadow (e : ShadowId) (x : Option Shadow) (i : LaneId) :
    (s.setShadow e x).lane i = s.lane i := rfl
@[simp] theorem lane_setCommitted (n : StreamId) (k : Nat) (i : LaneId) :
    (s.setCommitted n k).lane i = s.lane i := rfl
@[simp] theorem shadowAt_setLane (i : LaneId) (l : Option Lane) (e : ShadowId) :
    (s.setLane i l).shadowAt e = s.shadowAt e := rfl
@[simp] theorem shadowAt_setCommitted (n : StreamId) (k : Nat) (e : ShadowId) :
    (s.setCommitted n k).shadowAt e = s.shadowAt e := rfl
@[simp] theorem committed_setLane (i : LaneId) (l : Option Lane) (n : StreamId) :
    (s.setLane i l).committed n = s.committed n := rfl
@[simp] theorem committed_setShadow (e : ShadowId) (x : Option Shadow) (n : StreamId) :
    (s.setShadow e x).committed n = s.committed n := rfl
@[simp] theorem announcement_setPositions (n : StreamId) (a : AnnStream) (e : AnnId) :
    (s.setPositions n a).announcement e = s.announcement e := rfl
@[simp] theorem unit_setPositions (n m : StreamId) (a : AnnStream) : (s.setPositions n a).unit m = s.unit m := rfl
@[simp] theorem positions_setAnnouncement (e : AnnId) (a : Option Announcement) (n : StreamId) :
    (s.setAnnouncement e a).positions n = s.positions n := rfl

end Sys2Proof.Machine.State
end

