-- ==== Sys2Proof/Laws/Bus.lean ====
section
/-! SUPPORT. Bus transfers and the air log: what each shared operation can do, said once. `LogFrame s t` says that t
differs from s at most in what transfers and log appends touch. -/

namespace Sys2Proof.Machine

/-- t is s but for memory, the BERR plan, the COND flags, the halt pending, the write position and interrupt
pending. -/
def State.LogFrame (s t : State) : Prop :=
  t = { s with
    control := { s.control with interrupt := t.control.interrupt }
    conds := { s.conds with flags := t.conds.flags, haltPending := t.conds.haltPending }
    writePosition := t.writePosition, mem := t.mem, bus := t.bus }

namespace State

variable {s t u : State}

/-! ## The frame -/

theorem LogFrame.refl (s : State) : s.LogFrame s := rfl

theorem LogFrame.trans (h : s.LogFrame t) (k : t.LogFrame u) : s.LogFrame u := by
  unfold LogFrame at *
  rw [k, h]

theorem LogFrame.control (h : s.LogFrame t) :
    t.control = { s.control with interrupt := t.control.interrupt } := congrArg State.control h
theorem LogFrame.part (h : s.LogFrame t) : t.control.part = s.control.part := congrArg (·.control.part) h
theorem LogFrame.base (h : s.LogFrame t) : t.control.base = s.control.base := congrArg (·.control.base) h
theorem LogFrame.general (h : s.LogFrame t) : t.general = s.general := congrArg (·.general) h
theorem LogFrame.port (h : s.LogFrame t) : t.port = s.port := congrArg (·.port) h
theorem LogFrame.corrections (h : s.LogFrame t) : t.corrections = s.corrections := congrArg (·.corrections) h
theorem LogFrame.sweep (h : s.LogFrame t) : t.sweep = s.sweep := congrArg (·.sweep) h
theorem LogFrame.sched (h : s.LogFrame t) : t.sched = s.sched := congrArg (·.sched) h
theorem LogFrame.units (h : s.LogFrame t) : t.units = s.units := congrArg (·.units) h
theorem LogFrame.ann (h : s.LogFrame t) : t.ann = s.ann := congrArg (·.ann) h
theorem LogFrame.receiver (h : s.LogFrame t) : t.receiver = s.receiver := congrArg (·.receiver) h
theorem LogFrame.engine (h : s.LogFrame t) : t.engine = s.engine := congrArg (·.engine) h
theorem LogFrame.time (h : s.LogFrame t) : t.time = s.time := congrArg (·.time) h
theorem LogFrame.clock (h : s.LogFrame t) : t.clock = s.clock := congrArg (·.clock) h
theorem LogFrame.feedIn (h : s.LogFrame t) : t.feedIn = s.feedIn := congrArg (·.feedIn) h
theorem LogFrame.pending (h : s.LogFrame t) : t.pending = s.pending := congrArg (·.pending) h
theorem LogFrame.haltMask (h : s.LogFrame t) : t.conds.haltMask = s.conds.haltMask :=
  congrArg (·.conds.haltMask) h
theorem LogFrame.haltCause (h : s.LogFrame t) : t.conds.haltCause = s.conds.haltCause :=
  congrArg (·.conds.haltCause) h
theorem LogFrame.areaAddr (h : s.LogFrame t) (off : Nat) : t.areaAddr off = s.areaAddr off := by
  simp only [State.areaAddr, State.areaBase, h.base]
theorem LogFrame.stationTime (h : s.LogFrame t) : t.stationTime = s.stationTime := by
  simp only [State.stationTime, h.clock]

/-! ## Single steps -/

theorem LogFrame.dropEnd (s : State) : s.LogFrame s.dropEnd := rfl
theorem LogFrame.cause (s : State) (c : Condition) (w : FaultWhere) : s.LogFrame (s.cause c w) := rfl
theorem LogFrame.bumpLog (s : State) : s.LogFrame s.bumpLog := rfl
theorem LogFrame.raiseInterrupt (s : State) : s.LogFrame s.raiseInterrupt := rfl
theorem LogFrame.setMem (s : State) (m : Memory) : s.LogFrame { s with mem := m } := rfl

theorem LogFrame.causeIf (s : State) (b : Bool) (c : Condition) (w : FaultWhere) : s.LogFrame (s.causeIf b c w) := by
  cases b
  · exact LogFrame.refl s
  · exact LogFrame.cause s c w

@[simp] theorem areaAddr_dropEnd (s : State) (off : Nat) : s.dropEnd.areaAddr off = s.areaAddr off := rfl
@[simp] theorem areaAddr_cause (s : State) (c : Condition) (w : FaultWhere) (off : Nat) :
    (s.cause c w).areaAddr off = s.areaAddr off := rfl
@[simp] theorem areaAddr_setMem (s : State) (m : Memory) (off : Nat) :
    ({ s with mem := m } : State).areaAddr off = s.areaAddr off := rfl
@[simp] theorem areaAddr_beginBus (s : State) (env : Env) (off : Nat) :
    (s.beginBus env).areaAddr off = s.areaAddr off := rfl

/-! ## Reads -/

/-- A read burst gives the bytes at its address, or nothing and BOARD_BUS; memory is as it was. -/
theorem readArea_cases (s : State) (off len : Nat) :
    s.readArea off len = (some (memReadRun s.mem (s.areaAddr off) len), s.dropEnd) ∨
      s.readArea off len = (none, s.dropEnd.cause .boardBus nowhere) := by
  unfold readArea
  cases s.nextEnd
  · exact .inl rfl
  · exact .inr rfl

theorem readArea_frame (s : State) (off len : Nat) : s.LogFrame (s.readArea off len).2 := by
  rcases readArea_cases s off len with h | h <;> rw [h]
  · exact LogFrame.dropEnd s
  · exact (LogFrame.dropEnd s).trans (LogFrame.cause _ _ _)

theorem readArea_mem (s : State) (off len : Nat) : (s.readArea off len).2.mem = s.mem := by
  rcases readArea_cases s off len with h | h <;> rw [h] <;> rfl

theorem dropEnd_of_quiet (h : s.bus = []) : s.dropEnd = s := by
  cases s
  cases h
  rfl

theorem nextEnd_of_quiet (h : s.bus = []) : s.nextEnd = none := by simp [nextEnd, h]

/-- With no BERR to come a read delivers its bytes and changes nothing. -/
theorem readArea_of_quiet (h : s.bus = []) (off len : Nat) :
    s.readArea off len = (some (memReadRun s.mem (s.areaAddr off) len), s) := by
  simp only [readArea, nextEnd_of_quiet h, dropEnd_of_quiet h]

/-- With no BERR to come a payload fetch delivers its bytes and changes nothing. -/
theorem readPayload_of_quiet (h : s.bus = []) (a : Word) (len : Nat) :
    s.readPayload a len = (some (memReadRun s.mem a len), s) := by
  simp only [readPayload, nextEnd_of_quiet h, dropEnd_of_quiet h]

/-- A payload fetch gives the bytes at its address, or nothing; only the BERR plan moves. -/
theorem readPayload_cases (s : State) (a : Word) (len : Nat) :
    s.readPayload a len = (some (memReadRun s.mem a len), s.dropEnd) ∨ s.readPayload a len = (none, s.dropEnd) := by
  unfold readPayload
  cases s.nextEnd
  · exact .inl rfl
  · exact .inr rfl

/-! ## Writes -/

/-- A write burst puts all of its bytes, or a first part of them with BOARD_BUS. -/
theorem writeArea_cases (s : State) (off : Nat) (bs : List Byte) :
    s.writeArea off bs = (true, { s.dropEnd with mem := memWriteRun s.mem (s.areaAddr off) bs }) ∨
      ∃ k, s.writeArea off bs =
        (false, ({ s.dropEnd with mem := memWriteRun s.mem (s.areaAddr off) (bs.take k) } : State).cause .boardBus
          nowhere) := by
  unfold writeArea
  cases s.nextEnd with
  | none => exact .inl rfl
  | some k => exact .inr ⟨k, rfl⟩

theorem writeArea_frame (s : State) (off : Nat) (bs : List Byte) : s.LogFrame (s.writeArea off bs).2 := by
  rcases writeArea_cases s off bs with h | ⟨k, h⟩ <;> rw [h]
  · exact (LogFrame.dropEnd s).trans (LogFrame.setMem _ _)
  · exact ((LogFrame.dropEnd s).trans (LogFrame.setMem _ _)).trans (LogFrame.cause _ _ _)

/-- With no BERR to come a write puts all of its bytes and changes nothing else. -/
theorem writeArea_of_quiet (h : s.bus = []) (off : Nat) (bs : List Byte) :
    s.writeArea off bs = (true, { s with mem := memWriteRun s.mem (s.areaAddr off) bs }) := by
  simp only [writeArea, nextEnd_of_quiet h, dropEnd_of_quiet h]

/-- Memory after the writes of a list, every one of them made. -/
def writesMem (addr : Nat → Word) : List (Nat × List Byte) → Memory → Memory
  | [], m => m
  | (off, bs) :: rest, m => writesMem addr rest (memWriteRun m (addr off) bs)

theorem writeAll_of_quiet (h : s.bus = []) (ws : List (Nat × List Byte)) :
    s.writeAll ws = (true, { s with mem := writesMem s.areaAddr ws s.mem }) := by
  induction ws generalizing s with
  | nil => rfl
  | cons w ws ih =>
    obtain ⟨off, bs⟩ := w
    simp only [writeAll, writeArea_of_quiet h]
    rw [ih (s := { s with mem := memWriteRun s.mem (s.areaAddr off) bs }) h]
    rfl

theorem writeAll_frame (ws : List (Nat × List Byte)) (s : State) : s.LogFrame (s.writeAll ws).2 := by
  induction ws generalizing s with
  | nil => exact LogFrame.refl s
  | cons w ws ih =>
    obtain ⟨off, bs⟩ := w
    have f := writeArea_frame s off bs
    rw [writeAll]
    split
    · rename_i s' h
      rw [h] at f
      exact f.trans (ih _)
    · rename_i s' h
      rw [h] at f
      exact f

theorem readAll_frame (rs : List (Nat × Nat)) (s : State) : s.LogFrame (s.readAll rs).2 := by
  induction rs generalizing s with
  | nil => exact LogFrame.refl s
  | cons r rs ih =>
    obtain ⟨off, len⟩ := r
    have f := readArea_frame s off len
    rw [readAll]
    split
    · rename_i s' h
      rw [h] at f
      exact f
    · rename_i bs s' h
      rw [h] at f
      have g := ih s'
      split
      · rename_i k
        rw [k] at g
        exact f.trans g
      · rename_i k
        rw [k] at g
        exact f.trans g

theorem readAll_mem (rs : List (Nat × Nat)) (s : State) : (s.readAll rs).2.mem = s.mem := by
  induction rs generalizing s with
  | nil => rfl
  | cons r rs ih =>
    obtain ⟨off, len⟩ := r
    have f := readArea_mem s off len
    rw [readAll]
    split
    · rename_i s' h
      rw [h] at f
      exact f
    · rename_i bs s' h
      rw [h] at f
      have g := ih s'
      split
      · rename_i k
        rw [k] at g
        exact g.trans f
      · rename_i k
        rw [k] at g
        exact g.trans f

theorem readAll_of_quiet (h : s.bus = []) (rs : List (Nat × Nat)) :
    s.readAll rs = (some (rs.map fun r => memReadRun s.mem (s.areaAddr r.1) r.2), s) := by
  induction rs with
  | nil => rfl
  | cons r rs ih =>
    obtain ⟨off, len⟩ := r
    simp only [readAll, readArea_of_quiet h, ih, List.map_cons]

/-! ## The air log -/

/-- The log is full to an append that reads this read position (R177). -/
def logFull (s : State) (m : Memory) : Prop :=
  s.writePosition + 1 = (le16At (memReadRun m (s.areaAddr Config.offReadPosition) 2) 0).setWidth 9

theorem appendAt_frame (e : LogEvent) (time cells : Word) (s : State) : s.LogFrame (s.appendAt e time cells).2 := by
  have f := readArea_frame s Config.offReadPosition 2
  unfold appendAt
  split
  · rename_i s' h
    rw [h] at f
    exact f
  · rename_i bs s' h
    rw [h] at f
    split
    · exact f.trans (LogFrame.cause _ _ _)
    · have g := writeArea_frame s' (Config.offLog + Config.logSize * s'.writePosition.toNat) (logBytes e time cells)
      split
      · rename_i s'' k
        rw [k] at g
        exact f.trans g
      · rename_i s'' k
        rw [k] at g
        have w := writeArea_frame s''.bumpLog Config.offWritePosition (le16 (s''.bumpLog.writePosition.setWidth 16))
        have all := (f.trans g).trans ((LogFrame.bumpLog s'').trans w)
        simp only
        split
        · exact all.trans (LogFrame.raiseInterrupt _)
        · exact all

theorem append_frame (e : LogEvent) (s : State) : s.LogFrame (s.append e).2 := appendAt_frame _ _ _ _

theorem report_frame (e : LogEvent) (s : State) : s.LogFrame (s.report e) := append_frame e s

theorem reportAll_frame (es : List LogEvent) (s : State) : s.LogFrame (s.reportAll es) := by
  induction es generalizing s with
  | nil => exact LogFrame.refl s
  | cons e es ih => exact (report_frame e s).trans (ih _)

/-- Memory after an append that is made: the record, then the write position (R177). -/
def appendMem (s : State) (e : LogEvent) (time cells : Word) : Memory :=
  memWriteRun
    (memWriteRun s.mem (s.areaAddr (Config.offLog + Config.logSize * s.writePosition.toNat)) (logBytes e time cells))
    (s.areaAddr Config.offWritePosition) (le16 ((s.writePosition + 1).setWidth 16))

/-- With no BERR to come an append to a full log drops the record with LOG_FULL (R177). -/
theorem appendAt_of_quiet_full (h : s.bus = []) (e : LogEvent) (time cells : Word) (full : s.logFull s.mem) :
    s.appendAt e time cells =
      (true, s.cause .logFull
        { stream := e.stream, slot := 0xFF, lane := 0xFF, address := e.kind.code.setWidth 32 }) := by
  unfold logFull at full
  simp only [appendAt, readArea_of_quiet h, full, if_true]

/-- With no BERR to come an append to a log with room writes the record and the write position, and sets interrupt
pending when the class is notified (R177, R179). -/
theorem appendAt_of_quiet (h : s.bus = []) (e : LogEvent) (time cells : Word) (room : ¬s.logFull s.mem) :
    s.appendAt e time cells =
      (true, { s with
        mem := s.appendMem e time cells
        writePosition := s.writePosition + 1
        control := { s.control with interrupt := s.control.interrupt || s.notified e.kind } }) := by
  unfold logFull at room
  simp only [appendAt, readArea_of_quiet h, if_neg room, writeArea_of_quiet h]
  rw [writeArea_of_quiet (s := State.bumpLog _) (by simpa using h)]
  cases k : s.control.interrupt <;> cases j : s.notified e.kind <;>
    simp [notified, bumpLog, raiseInterrupt, appendMem, areaAddr, areaBase] at * <;> simp [*] <;>
    (cases s; rename_i c _ _ _ _ _ _ _ _ _ _ _ _ _ _ _ _ _; cases c; simp_all)

/-! ## Whether the transfers between two states ended well -/

/-- t has taken the outcomes of some transfers from the front of the plan of s. -/
def BusAfter (s t : State) : Prop := ∃ i, t.bus = s.bus.drop i

theorem BusAfter.refl (s : State) : s.BusAfter s := ⟨0, rfl⟩

theorem BusAfter.trans (h : s.BusAfter t) (k : t.BusAfter u) : s.BusAfter u := by
  obtain ⟨i, h⟩ := h
  obtain ⟨j, k⟩ := k
  exact ⟨i + j, by rw [k, h, List.drop_drop]⟩

@[simp] theorem bus_readArea (s : State) (off len : Nat) : (s.readArea off len).2.bus = s.bus.tail := by
  rcases readArea_cases s off len with h | h <;> rw [h] <;> rfl

@[simp] theorem bus_writeArea (s : State) (off : Nat) (bs : List Byte) :
    (s.writeArea off bs).2.bus = s.bus.tail := by
  rcases writeArea_cases s off bs with h | ⟨k, h⟩ <;> rw [h] <;> rfl

theorem BusAfter.of_tail (h : t.bus = s.bus.tail) : s.BusAfter t := ⟨1, by rw [h, List.drop_one]⟩

/-- With no BERR to come every transfer ends well. -/
theorem endedWell_of_quiet (h : s.bus = []) (t : State) : s.endedWell t = true := by simp [endedWell, h]

@[simp] theorem endedWell_self (s : State) : s.endedWell s = true := by simp [endedWell]

@[simp] theorem endedWellFrom_zero (s t : State) : s.endedWellFrom 0 t = s.endedWell t := rfl

/-- Where every transfer ended well, those after the first k did. -/
theorem endedWellFrom_of_endedWell (k : Nat) (h : s.endedWell t = true) : s.endedWellFrom k t = true :=
  List.all_eq_true.mpr fun x mem => List.all_eq_true.mp h x (List.mem_of_mem_drop mem)

/-- Only the plans of the two states count. -/
theorem endedWell_congr {s' t' : State} (h : s.bus = s'.bus) (k : t.bus = t'.bus) :
    s.endedWell t = s'.endedWell t' := by simp [endedWell, h, k]

/-- One transfer ends well when the plan holds no BERR for it. -/
theorem endedWell_of_tail (h : t.bus = s.bus.tail) : s.endedWell t = s.nextEnd.isNone := by
  unfold endedWell nextEnd
  rw [h]
  cases s.bus with
  | nil => rfl
  | cons x xs => cases x <;> simp

/-- The transfers of two actions one after the other ended well when those of each did. -/
theorem endedWell_trans (h : s.BusAfter t) (k : t.BusAfter u) :
    s.endedWell u = (s.endedWell t && t.endedWell u) := by
  obtain ⟨i, h⟩ := h
  obtain ⟨j, k⟩ := k
  unfold endedWell
  rw [k, h, ← List.all_append, List.drop_drop]
  congr 1
  simp only [List.length_drop]
  generalize s.bus = p
  rw [show p.length - (p.length - (i + j)) = min (i + j) p.length by omega,
    show p.length - (p.length - i) = min i p.length by omega,
    show p.length - i - (p.length - (i + j)) = min (i + j) p.length - min i p.length by omega]
  rcases Nat.le_total i p.length with le | le
  · rw [Nat.min_eq_left le, ← List.take_add]
    congr 1
    omega
  · simp [Nat.min_eq_right le, show min (i + j) p.length = p.length by omega]

/-- A read delivers its bytes exactly when it ended well. -/
theorem readArea_endedWell (s : State) (off len : Nat) :
    (s.readArea off len).1.isSome = s.endedWell (s.readArea off len).2 := by
  rw [endedWell_of_tail (bus_readArea s off len), readArea]
  cases s.nextEnd <;> rfl

/-- A write answers whether it ended well. -/
theorem writeArea_endedWell (s : State) (off : Nat) (bs : List Byte) :
    (s.writeArea off bs).1 = s.endedWell (s.writeArea off bs).2 := by
  rw [endedWell_of_tail (bus_writeArea s off bs), writeArea]
  cases s.nextEnd <;> rfl

/-- An append takes its transfers from the front of the plan, and answers whether they all ended well. -/
theorem appendAt_endedWell (e : LogEvent) (time cells : Word) (s : State) :
    s.BusAfter (s.appendAt e time cells).2 ∧
      (s.appendAt e time cells).1 = s.endedWell (s.appendAt e time cells).2 := by
  have read := readArea_endedWell s Config.offReadPosition 2
  have read1 := BusAfter.of_tail (bus_readArea s Config.offReadPosition 2)
  unfold appendAt
  split
  · rename_i s' h
    rw [h] at read read1
    exact ⟨read1, read⟩
  · rename_i bs s' h
    rw [h] at read read1
    split
    · exact ⟨read1, read⟩
    · have write := writeArea_endedWell s' (Config.offLog + Config.logSize * s'.writePosition.toNat)
        (logBytes e time cells)
      have write1 := BusAfter.of_tail (bus_writeArea s' (Config.offLog + Config.logSize * s'.writePosition.toNat)
        (logBytes e time cells))
      split
      · rename_i s'' k
        rw [k] at write write1
        exact ⟨read1.trans write1, by rw [endedWell_trans read1 write1, ← read, ← write]; rfl⟩
      · rename_i s'' k
        rw [k] at write write1
        have last := writeArea_endedWell s''.bumpLog Config.offWritePosition
          (le16 (s''.bumpLog.writePosition.setWidth 16))
        have last1 : s''.BusAfter (s''.bumpLog.writeArea Config.offWritePosition
            (le16 (s''.bumpLog.writePosition.setWidth 16))).2 := BusAfter.of_tail (bus_writeArea s''.bumpLog _ _)
        have all : s.endedWell (s''.bumpLog.writeArea Config.offWritePosition
            (le16 (s''.bumpLog.writePosition.setWidth 16))).2 = (s''.bumpLog.writeArea Config.offWritePosition
            (le16 (s''.bumpLog.writePosition.setWidth 16))).1 := by
          rw [endedWell_trans (read1.trans write1) last1, endedWell_trans read1 write1, ← read, ← write, last]
          rfl
        have after := (read1.trans write1).trans last1
        simp only
        split
        · exact ⟨after, all.symm⟩
        · exact ⟨after, all.symm⟩

/-- Appends in order take their transfers from the front of the plan. -/
theorem reportAll_busAfter (es : List LogEvent) (s : State) : s.BusAfter (s.reportAll es) := by
  induction es generalizing s with
  | nil => exact BusAfter.refl s
  | cons e es ih => exact (appendAt_endedWell e _ _ s).1.trans (ih _)

/-- Appends in order all end well when the first does and then the others do. -/
theorem reportAll_endedWell (e : LogEvent) (es : List LogEvent) (s : State) :
    s.endedWell (s.reportAll (e :: es)) = ((s.append e).1 && (s.report e).endedWell ((s.report e).reportAll es)) :=
  (endedWell_trans (appendAt_endedWell e _ _ s).1 (reportAll_busAfter es _)).trans
    (congrArg (· && _) (appendAt_endedWell e _ _ s).2.symm)

/-! ## Commands that use the bus -/

theorem withBus_bus (env : Env) (f : State → State) (s : State) : (withBus env f s).bus = [] := rfl

end State

end Sys2Proof.Machine
end

