-- ==== Sys2Proof/Laws/Lanes.lean ====
section
/-! SUPPORT. The scheduler's tables: what looking at them tells, and what each shared operation on lanes and items can
do, said once. `LaneFrame s t` says that t differs from s at most in the lanes and the committed loads. -/

namespace Sys2Proof.Machine

/-- t is s but for the lanes and the committed loads. -/
def State.LaneFrame (s t : State) : Prop :=
  t = { s with sched := { s.sched with lanes := t.sched.lanes, committed := t.sched.committed } }

/-- t is s but for the scheduler's tables, the notice store, and what transfers and log appends touch. -/
def State.TableFrame (s t : State) : Prop :=
  t = { s with
    control := { s.control with interrupt := t.control.interrupt }
    conds := { s.conds with flags := t.conds.flags, haltPending := t.conds.haltPending }
    writePosition := t.writePosition, mem := t.mem, bus := t.bus, sched := t.sched
    engine := { s.engine with store := t.engine.store } }

namespace State

variable {s t u : State}

/-! ## The frames -/

theorem LaneFrame.refl (s : State) : s.LaneFrame s := rfl

theorem LaneFrame.trans (h : s.LaneFrame t) (k : t.LaneFrame u) : s.LaneFrame u := by
  unfold LaneFrame at *
  rw [k, h]

theorem TableFrame.refl (s : State) : s.TableFrame s := rfl

theorem TableFrame.trans (h : s.TableFrame t) (k : t.TableFrame u) : s.TableFrame u := by
  unfold TableFrame at *
  rw [k, h]

theorem LaneFrame.table (h : s.LaneFrame t) : s.TableFrame t := by
  unfold LaneFrame at h
  unfold TableFrame
  rw [h]

theorem LogFrame.table (h : s.LogFrame t) : s.TableFrame t := by
  unfold LogFrame at h
  unfold TableFrame
  rw [h]

theorem LaneFrame.shadowAt (h : s.LaneFrame t) (e : ShadowId) : t.shadowAt e = s.shadowAt e := by
  unfold LaneFrame at h
  rw [h]
  rfl

theorem TableFrame.units (h : s.TableFrame t) : t.units = s.units := congrArg (·.units) h
theorem TableFrame.unit (h : s.TableFrame t) (n : StreamId) : t.unit n = s.unit n := by
  simp only [State.unit, h.units]
theorem TableFrame.ann (h : s.TableFrame t) : t.ann = s.ann := congrArg (·.ann) h
theorem TableFrame.sweep (h : s.TableFrame t) : t.sweep = s.sweep := congrArg (·.sweep) h
theorem TableFrame.clock (h : s.TableFrame t) : t.clock = s.clock := congrArg (·.clock) h
theorem TableFrame.names (h : s.TableFrame t) : t.engine.names = s.engine.names := congrArg (·.engine.names) h
theorem TableFrame.part (h : s.TableFrame t) : t.control.part = s.control.part := congrArg (·.control.part) h
theorem TableFrame.ceiling (h : s.TableFrame t) (n : StreamId) : t.ceiling n = s.ceiling n := by
  simp only [State.ceiling, h.unit]

theorem LaneFrame.setLane (s : State) (i : LaneId) (l : Option Lane) : s.LaneFrame (s.setLane i l) := rfl
theorem LaneFrame.setCommitted (s : State) (n : StreamId) (k : Nat) : s.LaneFrame (s.setCommitted n k) := rfl
theorem TableFrame.setShadow (s : State) (e : ShadowId) (x : Option Shadow) : s.TableFrame (s.setShadow e x) := rfl
theorem TableFrame.setNotice (s : State) (j : StoreId) (x : StoreEntry) : s.TableFrame (s.setNotice j x) := rfl

/-! ## Looking at the tables -/

/-- The lanes of a test are exactly those in use that satisfy it. -/
theorem mem_lanesWhere {p : Lane → Bool} {i : LaneId} :
    i ∈ s.lanesWhere p ↔ ∃ l, s.lane i = some l ∧ p l = true := by
  cases h : s.lane i <;> simp [lanesWhere, h]

theorem nodup_lanesWhere (s : State) (p : Lane → Bool) : (s.lanesWhere p).Nodup :=
  (List.nodup_finRange 96).filter _

/-- A source has a lane exactly when some lane in use has that source. -/
theorem hasLane_iff {src : Source} : s.hasLane src = true ↔ ∃ i l, s.lane i = some l ∧ l.source = src := by
  simp only [hasLane, Bool.not_eq_true', List.isEmpty_eq_false_iff_exists_mem, mem_lanesWhere, beq_iff_eq]

/-- A source has no lane exactly when no lane in use has that source. -/
theorem hasLane_eq_false {src : Source} : s.hasLane src = false ↔ ∀ i l, s.lane i = some l → l.source ≠ src := by
  rw [← Bool.not_eq_true, hasLane_iff]
  simp only [not_exists, not_and, ne_eq]

/-- A source has a lane on a stream exactly when some lane in use has that source and stream. -/
theorem hasLaneOn_iff {src : Source} {n : StreamId} :
    s.hasLaneOn src n = true ↔ ∃ i l, s.lane i = some l ∧ l.source = src ∧ l.stream = n := by
  simp only [hasLaneOn, Bool.not_eq_true', List.isEmpty_eq_false_iff_exists_mem, mem_lanesWhere, Bool.and_eq_true,
    beq_iff_eq]

/-- The lane mask of an item has the bits of the streams on which it holds a lane, and no other (R43). -/
theorem laneMask_getLsbD (e : ShadowId) {k : Nat} (hk : k < 8) :
    (s.laneMask e).getLsbD k = true ↔ ∃ i l, s.lane i = some l ∧ l.source = .item e ∧ l.stream.val = k := by
  have bits : ∀ b : StreamId → Bool, ∀ k : Fin 8,
      ((List.finRange 4).foldl (fun m n => if b n then m ||| BitVec.ofNat 8 (2 ^ n.val) else m) (0 : Byte)).getLsbD k =
        decide (∃ n : StreamId, b n = true ∧ n.val = k.val) := by decide
  rw [laneMask, bits (fun n => s.hasLaneOn (.item e) n) ⟨k, hk⟩, decide_eq_true_eq]
  simp only [hasLaneOn_iff]
  constructor
  · rintro ⟨n, ⟨i, l, hl, hs, rfl⟩, hn⟩
    exact ⟨i, l, hl, hs, hn⟩
  · rintro ⟨i, l, hl, hs, hn⟩
    exact ⟨l.stream, ⟨i, l, hl, hs, rfl⟩, hn⟩

/-- The first element of an enumeration that satisfies a test. -/
theorem find?_finRange_eq_some {k : Nat} {p : Fin k → Bool} {i : Fin k} :
    (List.finRange k).find? p = some i ↔ p i = true ∧ ∀ j, j < i → p j = false := by
  rw [List.find?_eq_some_iff_getElem]
  simp only [List.getElem_finRange, List.length_finRange, Fin.cast_mk, Bool.not_eq_true']
  constructor
  · rintro ⟨hp, m, hm, rfl, h⟩
    exact ⟨hp, fun j hj => h j.val hj⟩
  · rintro ⟨hp, h⟩
    exact ⟨hp, i.val, i.isLt, rfl, fun j hj => h ⟨j, by omega⟩ hj⟩

theorem find?_finRange_eq_none {k : Nat} {p : Fin k → Bool} :
    (List.finRange k).find? p = none ↔ ∀ i, p i = false := by
  simp [List.find?_eq_none]

/-- The free lane taken is free, and the lowest-numbered one (R62). -/
theorem freeLaneId_eq_some {i : LaneId} :
    s.freeLaneId = some i ↔ s.lane i = none ∧ ∀ j, j < i → s.lane j ≠ none := by
  simp only [freeLaneId, find?_finRange_eq_some, Option.isNone_iff_eq_none, Option.isNone_eq_false_iff,
    Option.isSome_iff_ne_none, ne_eq]

theorem freeLaneId_eq_none : s.freeLaneId = none ↔ ∀ i, s.lane i ≠ none := by
  simp only [freeLaneId, find?_finRange_eq_none, Option.isNone_eq_false_iff, Option.isSome_iff_ne_none, ne_eq]

/-- The free shadow entry taken is free, and the lowest-numbered one (R60). -/
theorem freeShadowId_eq_some {e : ShadowId} :
    s.freeShadowId = some e ↔ s.shadowAt e = none ∧ ∀ f, f < e → s.shadowAt f ≠ none := by
  simp only [freeShadowId, find?_finRange_eq_some, Option.isNone_iff_eq_none, Option.isNone_eq_false_iff,
    Option.isSome_iff_ne_none, ne_eq]

/-- The shadow entry found for a slot is in use for that slot. -/
theorem shadowOf_eq_some {slot : SlotId} {e : ShadowId} (h : s.shadowOf slot = some e) :
    ∃ sh, s.shadowAt e = some sh ∧ sh.slot = slot := by
  rw [shadowOf, find?_finRange_eq_some] at h
  replace h := h.1
  cases k : s.shadowAt e with
  | none => simp [k] at h
  | some sh => exact ⟨sh, rfl, by simpa [k] using h⟩

/-! ## Changing lanes -/

/-- A lane is created in the lowest-numbered free lane, and its stream's committed load rises (R62). -/
theorem createLane_of_free {i : LaneId} (h : s.freeLaneId = some i) (l : Lane) :
    s.createLane l = (s.setLane i (some l)).setCommitted l.stream (s.committed l.stream + l.load) := by
  simp only [createLane, h]

theorem createLane_frame (l : Lane) (s : State) : s.LaneFrame (s.createLane l) := by
  unfold createLane
  split
  · exact LaneFrame.refl s
  · rfl

/-- A lane dropped is free, and its load has left the committed load (R63). -/
theorem dropLane_of_some {i : LaneId} {l : Lane} (h : s.lane i = some l) :
    s.dropLane i = (s.setLane i none).setCommitted l.stream (s.committed l.stream - l.load) := by
  simp only [dropLane, h]

theorem dropLane_frame (i : LaneId) (s : State) : s.LaneFrame (s.dropLane i) := by
  unfold dropLane
  split
  · exact LaneFrame.refl s
  · rfl

/-- Closing a lane: nothing where it is free or already closing, freed when idle, marked in its repetition (R63). -/
theorem closeLane_cases (why : Closing) (i : LaneId) (s : State) :
    (s.closeLane why i = s ∧ ∀ l, s.lane i = some l → l.closing ≠ none) ∨
      (∃ l, s.lane i = some l ∧ l.closing = none ∧ l.repetition = .idle ∧ s.closeLane why i = s.dropLane i) ∨
      ∃ l, s.lane i = some l ∧ l.closing = none ∧ l.repetition ≠ .idle ∧
        s.closeLane why i = s.setLane i (some { l with closing := some why }) := by
  unfold closeLane
  split
  · exact .inl ⟨rfl, by simp_all⟩
  · rename_i l h
    split
    · refine .inl ⟨rfl, ?_⟩
      simp_all
    · rename_i hc
      split
      · exact .inr (.inl ⟨l, h, hc, ‹_›, rfl⟩)
      · exact .inr (.inr ⟨l, h, hc, ‹_›, rfl⟩)

theorem closeLane_frame (why : Closing) (i : LaneId) (s : State) : s.LaneFrame (s.closeLane why i) := by
  rcases closeLane_cases why i s with ⟨h, -⟩ | ⟨l, -, -, -, h⟩ | ⟨l, -, -, -, h⟩ <;> rw [h]
  · exact LaneFrame.refl s
  · exact dropLane_frame i s
  · rfl

theorem closeLanes_frame (why : Closing) (is : List LaneId) (s : State) : s.LaneFrame (s.closeLanes why is) := by
  induction is generalizing s with
  | nil => exact LaneFrame.refl s
  | cons i is ih => exact (closeLane_frame why i s).trans (ih _)

/-- Closing one lane leaves every other lane as it was. -/
theorem closeLane_lane_ne (why : Closing) {i j : LaneId} (ne : j ≠ i) (s : State) :
    (s.closeLane why i).lane j = s.lane j := by
  rcases closeLane_cases why i s with ⟨h, -⟩ | ⟨l, hl, -, -, h⟩ | ⟨l, -, -, -, h⟩ <;> rw [h]
  · rw [dropLane_of_some hl]
    exact lane_setLane_ne _ _ ne.symm
  · exact lane_setLane_ne _ _ ne.symm

/-- Closing lanes leaves every lane outside the list as it was. -/
theorem closeLanes_lane_of_not_mem (why : Closing) {is : List LaneId} {j : LaneId} (h : j ∉ is) (s : State) :
    (s.closeLanes why is).lane j = s.lane j := by
  induction is generalizing s with
  | nil => rfl
  | cons i is ih =>
    simp only [List.mem_cons, not_or] at h
    rw [closeLanes, ih h.2, closeLane_lane_ne why h.1]

/-- What closing a lane leaves of it (R63). -/
theorem closeLane_lane_self (why : Closing) {i : LaneId} {l : Lane} (h : s.lane i = some l) :
    (s.closeLane why i).lane i =
      if l.closing ≠ none then some l
      else if l.repetition = .idle then none
      else some { l with closing := some why } := by
  rcases closeLane_cases why i s with ⟨k, hc⟩ | ⟨k, hk, hc, hr, e⟩ | ⟨k, hk, hc, hr, e⟩
  · rw [k, if_pos (hc l h), h]
  · obtain rfl : l = k := Option.some.inj (h.symm.trans hk)
    rw [e, dropLane_of_some h, if_neg (not_not.mpr hc), if_pos hr]
    exact lane_setLane_self _ _ _
  · obtain rfl : l = k := Option.some.inj (h.symm.trans hk)
    rw [e, if_neg (not_not.mpr hc), if_neg hr]
    exact lane_setLane_self _ _ _

/-- What closing different lanes leaves of each one of them (R63). -/
theorem closeLanes_lane_of_mem (why : Closing) {is : List LaneId} {i : LaneId} {l : Lane} (nodup : is.Nodup)
    (mem : i ∈ is) (h : s.lane i = some l) :
    (s.closeLanes why is).lane i =
      if l.closing ≠ none then some l
      else if l.repetition = .idle then none
      else some { l with closing := some why } := by
  induction is generalizing s with
  | nil => cases mem
  | cons j is ih =>
    obtain ⟨hj, nodup⟩ := List.nodup_cons.mp nodup
    rw [closeLanes]
    rcases List.mem_cons.mp mem with rfl | hi
    · rw [closeLanes_lane_of_not_mem why hj, closeLane_lane_self why h]
    · exact ih nodup hi ((closeLane_lane_ne why (by rintro rfl; exact hj hi) s).trans h)

/-! ## Retirement and what follows a freeing -/

theorem retireItem_frame (e : ShadowId) (r : RetireReason) (s : State) : s.TableFrame (s.retireItem e r) := by
  unfold retireItem
  split
  · exact TableFrame.refl s
  · exact ((TableFrame.setShadow s e none).trans (writeAll_frame _ _).table).trans (report_frame _ _).table

/-- A retirement frees the item's shadow entry and changes nothing else of the scheduler (R44). -/
theorem retireItem_sched (e : ShadowId) (r : RetireReason) (s : State) :
    (s.retireItem e r).sched = (s.setShadow e none).sched := by
  unfold retireItem
  split
  · rename_i h
    have : s.sched.shadow.set e none = s.sched.shadow := by
      apply Vector.ext
      intro i hi
      rw [Vector.getElem_set]
      split
      · rename_i k
        subst k
        exact h.symm
      · rfl
    simp only [setShadow, this]
  · rw [(report_frame _ _).sched, (writeAll_frame _ _).sched]

theorem dropNotice_frame (x : FeedNotice) (r : DropReason) (slot : Byte) (s : State) :
    s.LogFrame (s.dropNotice x r slot) := (LogFrame.cause s _ _).trans (report_frame _ _)

/-- The report that an entry has no lane frees that entry, and drops the notice it holds (R141). -/
theorem noticeReport_cases (j : StoreId) (s : State) :
    (s.notice j = .free ∧ s.noticeReport j = s) ∨
      (s.notice j = .releasing ∧ s.noticeReport j = s.setNotice j .free) ∨
      ∃ x, s.notice j = .held x ∧
        s.noticeReport j = (s.setNotice j .free).dropNotice x .reRate (BitVec.ofNat 8 j.val) := by
  unfold noticeReport
  split
  · exact .inl ⟨‹_›, rfl⟩
  · exact .inr (.inl ⟨‹_›, rfl⟩)
  · exact .inr (.inr ⟨_, ‹_›, rfl⟩)

theorem noticeReport_frame (j : StoreId) (s : State) : s.TableFrame (s.noticeReport j) := by
  rcases noticeReport_cases j s with ⟨-, h⟩ | ⟨-, h⟩ | ⟨x, -, h⟩ <;> rw [h]
  · exact TableFrame.refl s
  · exact TableFrame.setNotice s j .free
  · exact (TableFrame.setNotice s j .free).trans (dropNotice_frame _ _ _ _).table

theorem noticeReport_sched (j : StoreId) (s : State) : (s.noticeReport j).sched = s.sched := by
  rcases noticeReport_cases j s with ⟨-, h⟩ | ⟨-, h⟩ | ⟨x, -, h⟩ <;> rw [h]
  · rfl
  · exact (dropNotice_frame _ _ _ _).sched

/-- After a freeing a source that has a lane left is as it was; an item without lanes retires, a notice without lanes is
reported (R63). -/
theorem afterFreeing_cases (src : Source) (why : Closing) (s : State) :
    (s.hasLane src = true ∧ s.afterFreeing src why = s) ∨
      (∃ e, src = .item e ∧ s.hasLane src = false ∧ s.afterFreeing src why = s.retireItem e why.retireReason) ∨
      ∃ j, src = .notice j ∧ s.hasLane src = false ∧ s.afterFreeing src why = s.noticeReport j := by
  unfold afterFreeing
  cases h : s.hasLane src
  · cases src with
    | item e => exact .inr (.inl ⟨e, rfl, rfl, rfl⟩)
    | notice j => exact .inr (.inr ⟨j, rfl, rfl, rfl⟩)
  · exact .inl ⟨rfl, rfl⟩

theorem afterFreeing_frame (src : Source) (why : Closing) (s : State) : s.TableFrame (s.afterFreeing src why) := by
  rcases afterFreeing_cases src why s with ⟨-, h⟩ | ⟨e, -, -, h⟩ | ⟨j, -, -, h⟩ <;> rw [h]
  · exact TableFrame.refl s
  · exact retireItem_frame _ _ _
  · exact noticeReport_frame _ _

/-- A lane that leaves its repetition is idle, or freed with what follows when it is closing (R63, R80). -/
theorem endRepetition_cases {i : LaneId} {l : Lane} (h : s.lane i = some l) :
    (l.closing = none ∧ s.endRepetition i = s.setLane i (some { l with repetition := .idle })) ∨
      ∃ why, l.closing = some why ∧ s.endRepetition i = (s.dropLane i).afterFreeing l.source why := by
  unfold endRepetition
  cases k : l.closing with
  | none => exact .inl ⟨rfl, by simp only [h, k]⟩
  | some why => exact .inr ⟨why, rfl, by simp only [h, k]⟩

theorem endRepetition_frame (i : LaneId) (s : State) : s.TableFrame (s.endRepetition i) := by
  cases h : s.lane i with
  | none => simp only [endRepetition, h]; exact TableFrame.refl s
  | some l =>
    rcases endRepetition_cases h with ⟨-, k⟩ | ⟨why, -, k⟩ <;> rw [k]
    · exact (LaneFrame.setLane s i _).table
    · exact (dropLane_frame i s).table.trans (afterFreeing_frame _ _ _)

theorem partFormed_frame (n : StreamId) (s : State) : s.TableFrame (s.partFormed n) := by
  unfold partFormed
  split
  · exact TableFrame.refl s
  · split
    · exact TableFrame.refl s
    · split
      · exact TableFrame.refl s
      · exact TableFrame.refl s
      · split
        · exact endRepetition_frame _ _
        · exact (LaneFrame.setLane _ _ _).table

theorem closeItem_frame (why : Closing) (e : ShadowId) (s : State) : s.TableFrame (s.closeItem why e) := by
  unfold closeItem
  split
  · exact TableFrame.refl s
  · exact (TableFrame.setShadow s e _).trans (closeLanes_frame _ _ _).table

/-- The closing of an item does to its own lanes what a closing does, and touches no other lane (R63, R64). -/
theorem closeItem_lane (why : Closing) {e : ShadowId} {sh : Shadow} (h : s.shadowAt e = some sh) {i : LaneId} {l : Lane}
    (hl : s.lane i = some l) :
    (s.closeItem why e).lane i =
      if l.source ≠ .item e ∨ l.closing ≠ none then some l
      else if l.repetition = .idle then none
      else some { l with closing := some why } := by
  simp only [closeItem, h]
  by_cases hs : l.source = .item e
  · exact (closeLanes_lane_of_mem why (s := s.setShadow e _) (nodup_lanesWhere s _)
      (mem_lanesWhere.mpr ⟨l, hl, by simp [hs]⟩) hl).trans (by simp [hs])
  · have : i ∉ s.lanesWhere fun l => l.source == .item e := fun hm => by
      obtain ⟨k, hk, hp⟩ := mem_lanesWhere.mp hm
      obtain rfl : l = k := Option.some.inj (hl.symm.trans hk)
      exact hs (by simpa using hp)
    rw [closeLanes_lane_of_not_mem why this, if_pos (.inl hs)]
    exact hl

/-- A lane that was free stays free when an item closes. -/
theorem closeItem_lane_none (why : Closing) (e : ShadowId) {i : LaneId} (hl : s.lane i = none) :
    (s.closeItem why e).lane i = none := by
  unfold closeItem
  split
  · exact hl
  · rw [closeLanes_lane_of_not_mem why fun hm => by
      obtain ⟨k, hk, -⟩ := mem_lanesWhere.mp hm
      cases hl.symm.trans hk]
    exact hl

/-- The closing of an item marks its own entry, with its first reason, and no other (R64). -/
theorem closeItem_shadowAt (why : Closing) {e : ShadowId} {sh : Shadow} (h : s.shadowAt e = some sh) (f : ShadowId) :
    (s.closeItem why e).shadowAt f =
      if f = e then some { sh with closing := some (sh.closing.getD why) } else s.shadowAt f := by
  simp only [closeItem, h, (closeLanes_frame _ _ _).shadowAt]
  split
  · subst f
    exact shadowAt_setShadow_self _ _ _
  · exact shadowAt_setShadow_ne _ _ (Ne.symm ‹_›)

theorem closeNotice_frame (j : StoreId) (s : State) : s.LaneFrame (s.closeNotice j) := closeLanes_frame _ _ _

theorem settleNotice_frame (j : StoreId) (had : Bool) (s : State) : s.TableFrame (s.settleNotice j had) := by
  unfold settleNotice
  split
  · exact noticeReport_frame j s
  · exact TableFrame.refl s

theorem settleItem_frame (e : ShadowId) (had : Bool) (s : State) : s.TableFrame (s.settleItem e had) := by
  unfold settleItem
  split
  · split
    · exact TableFrame.refl s
    · exact retireItem_frame _ _ _
  · exact TableFrame.refl s

theorem releaseNotice_frame (j : StoreId) (s : State) : s.TableFrame (s.releaseNotice j) :=
  ((TableFrame.setNotice s j _).trans (closeNotice_frame _ _).table).trans (settleNotice_frame _ _ _)

/-! ## Feed-notice lanes -/

theorem askLane_frame (j : StoreId) (x : FeedNotice) (n : StreamId) (s : State) : s.LaneFrame (s.askLane j x n) := by
  unfold askLane
  split
  · exact createLane_frame _ _
  · exact LaneFrame.refl s

theorem foldl_laneFrame {α : Type} {f : State → α → State}
    (h : ∀ (s : State) (a : α), s.LaneFrame (f s a)) (xs : List α) (s : State) : s.LaneFrame (xs.foldl f s) := by
  induction xs generalizing s with
  | nil => exact LaneFrame.refl s
  | cons x xs ih => exact (h s x).trans (ih _)

theorem askLanes_frame (j : StoreId) (x : FeedNotice) (matched : BitVec 4) (s : State) :
    s.LaneFrame (s.askLanes j x matched) := by
  apply foldl_laneFrame
  intro s n
  split
  · exact askLane_frame _ _ _ _
  · exact LaneFrame.refl s

theorem reRateNotices_frame (j : StoreId) (x : FeedNotice) (s : State) : s.LaneFrame (s.reRateNotices j x) := by
  apply foldl_laneFrame
  intro s i
  unfold reRateNotice
  split
  · exact LaneFrame.refl s
  · split
    · exact LaneFrame.refl s
    · dsimp only
      split
      · rfl
      · exact closeLane_frame _ _ _

/-! ## Slots and selection -/

/-- What a slot opening leaves in each lane (R37, R70). -/
theorem offerSlot_lane (n : StreamId) (s : State) (i : LaneId) :
    (s.offerSlot n).lane i = (s.lane i).map (slotPassed (decide (s.control.part = .running)) n) := by
  simp [offerSlot, lane]

theorem offerSlot_frame (n : StreamId) (s : State) : s.LaneFrame (s.offerSlot n) := rfl

@[simp] theorem offerSlot_shadowAt (n : StreamId) (s : State) (e : ShadowId) :
    (s.offerSlot n).shadowAt e = s.shadowAt e := rfl
@[simp] theorem offerSlot_committed (n m : StreamId) (s : State) : (s.offerSlot n).committed m = s.committed m := rfl
@[simp] theorem offerSlot_unit (n m : StreamId) (s : State) : (s.offerSlot n).unit m = s.unit m := rfl

theorem selectable_iff {n : StreamId} {l : Lane} :
    s.selectable n l = true ↔ s.eligible n l = true ∧ l.fresh = false := by
  simp [selectable]

end State

end Sys2Proof.Machine
end

