-- ==== Sys2Proof/Laws/Announce.lean ====
section
/-! SUPPORT. The announcement controller: what its searches tell, and what each shared operation on positions and
announcements can do, said once. `AnnFrame s t` says that t differs from s at most in the announcement table, the
positions and the units' ALERT burst counters. -/

namespace Sys2Proof.Machine

/-! ## Positions -/

namespace AnnStream

/-- Joining the waiting list adds the position and keeps the others. -/
theorem mem_insertWaiting {p q : Position} {ws : List Position} :
    q ∈ insertWaiting p ws ↔ q = p ∨ q ∈ ws := by
  induction ws with
  | nil => simp [insertWaiting]
  | cons w ws ih =>
    simp only [insertWaiting]
    split
    · simp only [List.mem_cons, ih]
      tauto
    · simp only [List.mem_cons]

theorem length_insertWaiting (p : Position) (ws : List Position) : (insertWaiting p ws).length = ws.length + 1 := by
  induction ws with
  | nil => rfl
  | cons w ws ih =>
    simp only [insertWaiting]
    split <;> simp [ih]

/-- The entry a displacement takes is of the list, and none of the list has a lower level (R100). -/
theorem lowestWaiting_some {ws : List Position} {w : Position} (h : lowestWaiting ws = some w) :
    w ∈ ws ∧ ∀ x ∈ ws, w.level ≤ x.level := by
  induction ws generalizing w with
  | nil => simp [lowestWaiting] at h
  | cons q qs ih =>
    simp only [lowestWaiting] at h
    split at h
    · rename_i k
      cases qs with
      | nil => simp_all
      | cons r rs =>
        simp only [lowestWaiting] at k
        split at k
        · cases k
        · split at k <;> cases k
    · rename_i v k
      have := ih k
      split at h <;> cases h
      · refine ⟨by simp, ?_⟩
        intro x hx
        rcases List.mem_cons.1 hx with rfl | hx
        · exact le_refl _
        · have := this.2 x hx
          omega
      · refine ⟨by simp [this.1], ?_⟩
        intro x hx
        rcases List.mem_cons.1 hx with rfl | hx
        · omega
        · exact this.2 x hx

theorem lowestWaiting_ne_none {q : Position} {qs : List Position} : lowestWaiting (q :: qs) ≠ none := by
  simp only [lowestWaiting]
  split
  · simp
  · split <;> simp

/-- A removal keeps exactly the positions outside the group. -/
theorem mem_all_remove {g : AnnId → Bool} {a : AnnStream} {p : Position} :
    p ∈ (a.remove g).all ↔ p ∈ a.all ∧ g p.entry = false := by
  cases h : a.current with
  | none => simp [all, remove, h, or_and_right]
  | some c =>
    cases k : g c.entry <;> simp [all, remove, h, or_and_right] <;> grind

/-- A resumption, on a stream without a CURRENT entry, keeps exactly the positions held. -/
theorem mem_all_resume {a : AnnStream} (h : a.current = none) {p : Position} :
    p ∈ a.resume.2.all ↔ p ∈ a.all := by
  unfold resume
  split
  · simp [all, *]
  · simp [all, *]
  · simp [all, *]
  · split <;> simp [all, *]
    grind

/-- Below its limit the arrival counter rises by 1 and nothing is renumbered (R92). -/
theorem countArrival_of_lt {a : AnnStream} (h : a.arrivals < 0xFFFFFFFF) :
    a.countArrival = { a with arrivals := a.arrivals + 1 } := by
  have : a.arrivals + 1 ≤ Config.countLimit := h
  simp only [countArrival, if_pos this]

/-- A renumbering leaves entries and levels as they were. -/
theorem countArrival_levels (a : AnnStream) :
    a.countArrival.current.map Position.level = a.current.map Position.level ∧
      a.countArrival.suspended.map Position.level = a.suspended.map Position.level ∧
      a.countArrival.waiting.map Position.level = a.waiting.map Position.level := by
  unfold countArrival
  split
  · exact ⟨rfl, rfl, rfl⟩
  · have : Position.level ∘ a.renumber = Position.level := rfl
    simp [this]

end AnnStream

/-- t is s but for the announcement table, the positions and the burst counters. -/
def State.AnnFrame (s t : State) : Prop :=
  t = { s with ann := { s.ann with table := t.ann.table, streams := t.ann.streams }, units := t.units } ∧
    ∀ n, t.unit n = { s.unit n with burst := (t.unit n).burst }

namespace State

variable {s t u : State}

theorem AnnFrame.refl (s : State) : s.AnnFrame s := ⟨rfl, fun _ => rfl⟩

theorem AnnFrame.trans (h : s.AnnFrame t) (k : t.AnnFrame u) : s.AnnFrame u := by
  refine ⟨?_, fun n => ?_⟩
  · have a := h.1
    have b := k.1
    rw [b, a]
  · rw [k.2 n, h.2 n]

theorem AnnFrame.part (h : s.AnnFrame t) : t.control.part = s.control.part := congrArg (·.control.part) h.1
theorem AnnFrame.sched (h : s.AnnFrame t) : t.sched = s.sched := congrArg (·.sched) h.1
theorem AnnFrame.mem (h : s.AnnFrame t) : t.mem = s.mem := congrArg (·.mem) h.1
theorem AnnFrame.conds (h : s.AnnFrame t) : t.conds = s.conds := congrArg (·.conds) h.1
theorem AnnFrame.config (h : s.AnnFrame t) (n : StreamId) : (t.unit n).config = (s.unit n).config :=
  congrArg (·.config) (h.2 n)

theorem AnnFrame.setPositions (s : State) (n : StreamId) (a : AnnStream) : s.AnnFrame (s.setPositions n a) :=
  ⟨rfl, fun _ => rfl⟩

theorem AnnFrame.setAnnouncement (s : State) (e : AnnId) (a : Option Announcement) :
    s.AnnFrame (s.setAnnouncement e a) := ⟨rfl, fun _ => rfl⟩

theorem setMask_frame (e : AnnId) (mask : BitVec 4) (s : State) : s.AnnFrame (s.setMask e mask) := by
  unfold setMask
  split
  · exact AnnFrame.refl s
  · exact AnnFrame.setAnnouncement _ _ _

/-- While RUNNING or HELD the burst counter takes the stream's ALERT burst; in other part states it stays (R113). -/
theorem setBurst_frame (n : StreamId) (s : State) : s.AnnFrame (s.setBurst n) := by
  unfold setBurst
  split
  · refine ⟨rfl, fun m => ?_⟩
    by_cases h : n = m
    · subst h
      simp
    · rw [unit_setUnit_ne _ _ h]
  · exact AnnFrame.refl s

@[simp] theorem setBurst_positions (n m : StreamId) (s : State) : (s.setBurst n).positions m = s.positions m := by
  unfold setBurst
  split <;> rfl

theorem displace_frame (n : StreamId) (w : Position) (s : State) : s.AnnFrame (s.displace n w).2 := by
  unfold displace
  split
  · exact AnnFrame.refl s
  · dsimp only
    split
    · exact AnnFrame.setAnnouncement _ _ _
    · exact setMask_frame _ _ _

theorem offerStream_frame (e : AnnId) (n : StreamId) (level : Nat) (s : State) :
    s.AnnFrame (s.offerStream e n level).2 := by
  unfold offerStream
  dsimp only
  split
  · exact AnnFrame.refl s
  · exact ((AnnFrame.setPositions _ _ _).trans (setMask_frame _ _ _)).trans (setBurst_frame _ _)
  · split
    · exact (AnnFrame.setPositions _ _ _).trans (setMask_frame _ _ _)
    · exact ((AnnFrame.setPositions _ _ _).trans (setMask_frame _ _ _)).trans (displace_frame _ _ _)

theorem offerStreams_frame (e : AnnId) (levelOn : StreamId → Nat) (ns : List StreamId) (s : State) :
    s.AnnFrame (s.offerStreams e levelOn ns).2 := by
  induction ns generalizing s with
  | nil => exact AnnFrame.refl s
  | cons n ns ih => exact (offerStream_frame e n _ s).trans (ih _)

theorem endOnStream_frame (g : AnnId → Bool) (n : StreamId) (s : State) : s.AnnFrame (s.endOnStream g n).2 := by
  unfold endOnStream
  dsimp only
  split
  · exact (AnnFrame.setPositions _ _ _).trans (setBurst_frame _ _)
  · exact AnnFrame.setPositions _ _ _

theorem endOnStreams_frame (g : AnnId → Bool) (ns : List StreamId) (s : State) :
    s.AnnFrame (s.endOnStreams g ns).2 := by
  induction ns generalizing s with
  | nil => exact AnnFrame.refl s
  | cons n ns ih => exact (endOnStream_frame g n s).trans (ih _)

/-- What a group's ending leaves on a stream: its positions without the group, resumed where the CURRENT entry went. -/
theorem endOnStream_positions (g : AnnId → Bool) (n : StreamId) (s : State) :
    (s.endOnStream g n).2.positions n =
      if (s.positions n).loses g then ((s.positions n).remove g).resume.2 else (s.positions n).remove g := by
  unfold endOnStream
  dsimp only
  split
  · simp [*]
  · simp [*]

/-- An ending on one stream leaves the positions of every other. -/
theorem endOnStream_positions_ne (g : AnnId → Bool) {n m : StreamId} (ne : n ≠ m) (s : State) :
    (s.endOnStream g n).2.positions m = s.positions m := by
  unfold endOnStream
  dsimp only
  split
  · simp only [setBurst_positions]
    exact positions_setPositions_ne _ _ ne
  · exact positions_setPositions_ne _ _ ne

/-- What a group's ending leaves on any of a list of streams without repeats. -/
theorem endOnStreams_positions (g : AnnId → Bool) {ns : List StreamId} (nodup : ns.Nodup) (n : StreamId) (s : State) :
    (s.endOnStreams g ns).2.positions n =
      if n ∈ ns then
        (if (s.positions n).loses g then ((s.positions n).remove g).resume.2 else (s.positions n).remove g)
      else s.positions n := by
  induction ns generalizing s with
  | nil => simp [endOnStreams]
  | cons m ms ih =>
    obtain ⟨hm, hms⟩ := List.nodup_cons.1 nodup
    simp only [endOnStreams]
    rw [ih hms]
    by_cases h : n = m
    · subst h
      rw [if_neg hm, endOnStream_positions]
      simp
    · have : m ≠ n := fun e => h e.symm
      simp only [endOnStream_positions_ne g this, List.mem_cons, h, false_or]

/-! ## Searches and masks -/

/-- The entry found is that of an announcement of the origin and number. -/
theorem findAnnouncement_eq_some {o : Origin} {number : Byte} {e : AnnId} (h : s.findAnnouncement o number = some e) :
    ∃ a, s.announcement e = some a ∧ a.origin = o ∧ a.number = number := by
  rw [findAnnouncement, find?_finRange_eq_some] at h
  replace h := h.1
  cases k : s.announcement e with
  | none => simp [k] at h
  | some a =>
    refine ⟨a, rfl, ?_⟩
    simpa [k] using h

/-- The free entry taken is free, and the lowest-numbered one (R91). -/
theorem freeAnnouncement_eq_some {e : AnnId} :
    s.freeAnnouncement = some e ↔ s.announcement e = none ∧ ∀ f, f < e → s.announcement f ≠ none := by
  simp only [freeAnnouncement, find?_finRange_eq_some, Option.isNone_iff_eq_none, Option.isNone_eq_false_iff,
    Option.isSome_iff_ne_none, ne_eq]

theorem mem_maskStreams {mask : BitVec 4} {n : StreamId} : n ∈ maskStreams mask ↔ mask.getLsbD n.val = true := by
  simp [maskStreams]

/-- A mask gathered over the streams has exactly the bits of the streams that satisfy the test. -/
theorem getLsbD_maskOf (p : StreamId → Bool) (n : StreamId) :
    ((List.finRange 4).foldl (fun m i => if p i then m ||| BitVec.ofNat 4 (2 ^ i.val) else m) (0 : BitVec 4)).getLsbD
      n.val = p n := by
  have h : List.finRange 4 = [0, 1, 2, 3] := by decide
  rw [h]
  simp only [List.foldl_cons, List.foldl_nil]
  cases h0 : p 0 <;> cases h1 : p 1 <;> cases h2 : p 2 <;> cases h3 : p 3 <;>
    (match n with
      | 0 => simp [h0]
      | 1 => simp [h1]
      | 2 => simp [h2]
      | 3 => simp [h3])

/-- The enabled mask has exactly the bits of the enabled streams (R95). -/
theorem getLsbD_enabledMask (s : State) (n : StreamId) : s.enabledMask.getLsbD n.val = s.enabled n :=
  getLsbD_maskOf s.enabled n

end State

end Sys2Proof.Machine
end

