-- ==== Sys2Proof/Laws/Ending.lean ====
section
/-! SUPPORT. The ending of a group of announcements: what it does to table, positions, bursts and log, said once; when a
request of the board is answered and when its answer is owed; what a tick already taken leaves due, and when that comes
before an action. -/

namespace Sys2Proof.Machine.State

variable {s : State}

/-- What a group's ending does to the unit of a stream of an on-air part: the burst where the CURRENT entry went. -/
theorem endOnStream_unit (g : AnnId → Bool) (n m : StreamId) (s : State) (air : s.control.part.onAir = true) :
    (s.endOnStream g n).2.unit m =
      if m = n ∧ (s.positions n).loses g = true then { s.unit m with burst := (s.unit m).config.burst }
      else s.unit m := by
  by_cases h : (s.positions n).loses g = true
  · by_cases k : n = m
    · subst k
      simp [endOnStream, h, setBurst, air]
    · have : m ≠ n := fun e => k e.symm
      simp [endOnStream, h, setBurst, air, this, unit_setUnit_ne _ _ k]
  · simp [endOnStream, h]

/-- The same over streams without repeats. -/
theorem endOnStreams_unit (g : AnnId → Bool) {ns : List StreamId} (nodup : ns.Nodup) (n : StreamId) (s : State)
    (air : s.control.part.onAir = true) :
    (s.endOnStreams g ns).2.unit n =
      if n ∈ ns ∧ (s.positions n).loses g = true then { s.unit n with burst := (s.unit n).config.burst }
      else s.unit n := by
  induction ns generalizing s with
  | nil => simp [endOnStreams]
  | cons m ms ih =>
    obtain ⟨hm, hms⟩ := List.nodup_cons.1 nodup
    simp only [endOnStreams]
    rw [ih hms _ ((endOnStream_frame g m s).part ▸ air), endOnStream_unit g m n s air]
    by_cases h : n = m
    · subst h
      simp [hm]
    · have : m ≠ n := fun e => h e.symm
      simp [endOnStream_positions_ne g this, h]

/-- The removal of positions leaves the announcement table. -/
theorem endOnStreams_announcement (g : AnnId → Bool) (ns : List StreamId) (e : AnnId) (s : State) :
    (s.endOnStreams g ns).2.announcement e = s.announcement e := by
  induction ns generalizing s with
  | nil => rfl
  | cons n ns ih =>
    simp only [endOnStreams]
    rw [ih]
    unfold endOnStream
    dsimp only
    split
    · dsimp only [setBurst]
      split <;> rfl
    · rfl

@[simp] theorem freeGroup_announcement (g : AnnId → Bool) (e : AnnId) (s : State) :
    (s.freeGroup g).announcement e = if g e then none else s.announcement e := by
  simp [freeGroup, announcement]
@[simp] theorem freeGroup_positions (g : AnnId → Bool) (n : StreamId) (s : State) :
    (s.freeGroup g).positions n = s.positions n := rfl
@[simp] theorem freeGroup_unit (g : AnnId → Bool) (n : StreamId) (s : State) : (s.freeGroup g).unit n = s.unit n := rfl
theorem freeGroup_frame (g : AnnId → Bool) (s : State) : s.AnnFrame (s.freeGroup g) := ⟨rfl, fun _ => rfl⟩

/-- An ending touches the announcement table, the positions and the bursts, and then appends its records. -/
theorem endGroup_frame (g : AnnId → Bool) (why : EndReason) (s : State) :
    ∃ t, s.AnnFrame t ∧ t.LogFrame (s.endGroup g why) :=
  ⟨_, (freeGroup_frame g s).trans (endOnStreams_frame g _ _), reportAll_frame _ _⟩

/-- What an ending does to table, positions and bursts of an on-air part. -/
theorem endGroup_ended (g : AnnId → Bool) (why : EndReason) (s : State) (air : s.control.part.onAir = true) :
    s.Ended (s.endGroup g why) g := by
  have nodup : (List.finRange 4).Nodup := List.nodup_finRange 4
  have table : ∀ e, (s.endGroup g why).announcement e = if g e then none else s.announcement e := fun e => by
    have := endOnStreams_announcement g (List.finRange 4) e (s.freeGroup g)
    rw [freeGroup_announcement] at this
    rw [← this]
    exact congrArg (·.table[e]) (reportAll_frame _ _).ann
  have pos : ∀ n, (s.endGroup g why).positions n =
      if (s.positions n).loses g then ((s.positions n).remove g).resume.2 else (s.positions n).remove g := fun n => by
    have := endOnStreams_positions g nodup n (s.freeGroup g)
    rw [if_pos (List.mem_finRange n), freeGroup_positions] at this
    rw [← this]
    exact congrArg (·.streams[n]) (reportAll_frame _ _).ann
  have unit : ∀ n, (s.endGroup g why).unit n =
      if (s.positions n).loses g then { s.unit n with burst := (s.unit n).config.burst } else s.unit n := fun n => by
    have := endOnStreams_unit g nodup n (s.freeGroup g) air
    simp only [List.mem_finRange, true_and, freeGroup_positions, freeGroup_unit] at this
    rw [← this]
    exact congrArg (·[n]) (reportAll_frame _ _).units
  have all : ∀ n p, p ∈ ((s.endGroup g why).positions n).all ↔
      p ∈ (s.positions n).all ∧ g p.entry = false := fun n p => by
    rw [pos]
    split
    · rename_i h
      rw [AnnStream.mem_all_resume, AnnStream.mem_all_remove]
      cases k : (s.positions n).current <;> simp_all [AnnStream.loses, AnnStream.remove]
    · exact AnnStream.mem_all_remove
  refine ⟨table, fun n p h => (all n p).1 h, fun n p h k => (all n p).2 ⟨h, k⟩, fun n h => ?_, fun n h => ?_⟩
  · rw [pos, unit, h]
    refine ⟨?_, rfl⟩
    cases k : (s.positions n).current <;> simp_all [AnnStream.loses, AnnStream.remove]
  · rw [pos, unit, h]
    exact ⟨rfl, rfl⟩

/-! ## Requests of the board -/

/-- A new request is taken and carried out, and its answer is written when every transfer of it ended well and owed
otherwise (R107, R109, R26, log 13). -/
theorem pollRecord_of_new {r : RequestId} {q : AnnRequest} (none : s.ann.owed[r] = none)
    (new : q.request ≠ s.ann.taken[r]) :
    let c := (s.setAnnTaken r q.request).carryOut r q
    let o : AnnOwed := { outcome := c.1, number := q.request }
    (s.endedWell c.2 = true ∧ s.pollRecord r q = c.2.answerRequest r o) ∨
      (s.endedWell c.2 = false ∧ s.pollRecord r q = c.2.setAnnOwed r (some o)) := by
  simp only [pollRecord, none, if_neg new]
  split
  · next h => exact .inl ⟨h, rfl⟩
  · next h => exact .inr ⟨by simpa using h, rfl⟩

/-- A new offer is taken and carried out, and its answer is written when every transfer of its append ended well and owed
otherwise (R146, R147, R26, log 13). -/
theorem clockRecord_of_new {bs : List Byte} (none : s.clock.owed = none) (new : byteAt bs 0 ≠ s.clock.taken) :
    let c := (s.setClockTaken (byteAt bs 0)).boardOffer (le32At bs 4) (byteAt bs 0)
    let o : ClockOwed := { outcome := c.1, number := byteAt bs 0 }
    (s.endedWell c.2 = true ∧ s.clockRecord bs = c.2.answerClock o) ∨
      (s.endedWell c.2 = false ∧ s.clockRecord bs = c.2.setClockOwed (some o)) := by
  simp only [clockRecord, none, if_neg new]
  split
  · next h => exact .inl ⟨h, rfl⟩
  · next h => exact .inr ⟨by simpa using h, rfl⟩

/-! ## What a tick already taken leaves due -/

/-- An action starts after what is due, unless a halt is pending before or after that. -/
theorem startAfter_cases (settle action : State → State) (s : State) :
    (s.mayStart = false ∧ s.startAfter settle action = s) ∨
      (s.mayStart = true ∧ (settle s).mayStart = true ∧ s.startAfter settle action = action (settle s)) ∨
      (s.mayStart = true ∧ (settle s).mayStart = false ∧ s.startAfter settle action = settle s) := by
  unfold startAfter
  cases h : s.mayStart <;> cases k : (settle s).mayStart <;> simp

/-- With no expiry due nothing comes before an action. -/
theorem settleHolds_of_none (h : ∀ e, s.holdOver e = false) : s.settleHolds = s := by
  simp [settleHolds, h]

/-- The expiries that are due end as one group. -/
theorem settleHolds_of_due (running : s.control.part = .running) {e : AnnId} (h : s.holdOver e = true) :
    s.settleHolds = s.endGroup s.holdOver .expired := by
  rw [settleHolds, if_pos ⟨running, List.any_eq_true.mpr ⟨e, List.mem_finRange e, h⟩⟩]

/-- After the expiries none is due. -/
theorem settleHolds_holdOver (running : s.control.part = .running) (e : AnnId) : s.settleHolds.holdOver e = false := by
  by_cases h : ∃ e, s.holdOver e = true
  · obtain ⟨f, hf⟩ := h
    rw [settleHolds_of_due running hf, holdOver, (endGroup_ended _ _ s (by simp [running, PartState.onAir])).table]
    cases k : s.holdOver e
    · simpa [holdOver] using k
    · rfl
  · simp only [not_exists, Bool.not_eq_true] at h
    rw [settleHolds_of_none h, h]

/-- With no release due nothing comes before an action. -/
theorem settleLives_of_none (h : ∀ j, s.lifeOf j ≠ some 0) : s.settleLives = s := by
  have : s.lifeOver = [] := List.filter_eq_nil_iff.mpr fun j _ => by simpa using h j
  simp [settleLives, this]

/-- A release gives up the entry's notice and leaves the lanes of the others. -/
theorem releaseNotice_notice (j : StoreId) (s : State) :
    ((s.releaseNotice j).notice j = .releasing ∨ (s.releaseNotice j).notice j = .free) ∧
      ∀ k, k ≠ j → (s.releaseNotice j).notice k = s.notice k := by
  have store : ((s.setNotice j .releasing).closeNotice j).engine = (s.setNotice j .releasing).engine :=
    congrArg (·.engine) (closeNotice_frame j _)
  have self : ((s.setNotice j .releasing).closeNotice j).notice j = .releasing := by
    rw [notice, store]
    exact notice_setNotice_self _ _ _
  have other : ∀ k, k ≠ j → ((s.setNotice j .releasing).closeNotice j).notice k = s.notice k := fun k ne => by
    rw [notice, store]
    exact notice_setNotice_ne _ _ (Ne.symm ne)
  unfold releaseNotice settleNotice
  dsimp only
  split
  · rcases noticeReport_cases j ((s.setNotice j .releasing).closeNotice j) with ⟨h, -⟩ | ⟨-, h⟩ | ⟨x, h, -⟩
    · simp [self] at h
    · rw [h]
      exact ⟨.inr (notice_setNotice_self _ _ _), fun k ne => (notice_setNotice_ne _ _ (Ne.symm ne)).trans (other k ne)⟩
    · simp [self] at h
  · exact ⟨.inl self, other⟩

/-! ## The loss of the feed -/

theorem lossDue_iff : s.lossDue = true ↔
    s.control.part = .running ∧ s.receiver.feed = .live ∧ s.general.silenceLimit ≤ s.receiver.silence := by
  simp [lossDue, and_assoc]

theorem settleLoss_of_due (h : s.lossDue = true) : s.settleLoss = s.loseFeed := by simp [settleLoss, h]

theorem settleLoss_of_not_due (h : s.lossDue = false) : s.settleLoss = s := by simp [settleLoss, h]

end Sys2Proof.Machine.State
end

