-- ==== Sys2Proof/Laws/Records.lean ====
section
/-! SUPPORT. Appending records with no BERR to come: what the record words of Safety.lean are in the machine, and
`reportAll_logged`, which says once what a list of appends does. -/

namespace Sys2Proof.Machine.State

variable {s : State}

/-! ## The records -/

theorem recordBytes_eq (s : State) (time : Word) (e : LogEvent) :
    s.recordBytes time e = logBytes e time (s.recordCells e.stream) := by
  cases e with
  | mk kind stream reason aux subject => cases stream <;> simp [recordBytes, logBytes, recordCells]

theorem length_recordBytes (s : State) (time : Word) (e : LogEvent) : (s.recordBytes time e).length = 16 := rfl

theorem annEvent_eq (kind : LogKind) (stream : Option StreamId) (reason : Byte) (aux : Nat) (a : Announcement) :
    annEvent kind stream reason aux a.origin a.number = alertRecord kind stream reason aux a := by
  unfold annEvent alertRecord annSubject alertSubject
  cases a.origin <;> rfl

theorem refusedEvent_eq (o : AnnOutcome) (level : Nat) (origin : Origin) (number : Byte) :
    refusedEvent o level origin number = refusedRecord o.code level origin number := by
  cases origin <;> rfl

theorem retiredEvent_eq (slot : SlotId) (desk : BitVec 4) (r : RetireReason) :
    retiredEvent slot desk r = itemRecord .itemRetired r.code desk slot := rfl

theorem droppedEvent_eq (x : FeedNotice) (r : DropReason) : droppedEvent x r = droppedRecord x r.code := rfl

/-! ## Room -/

theorem full_iff_room (s : State) : s.full ↔ s.room = 0 := by
  unfold full room
  generalize BitVec.setWidth 9 (le16At (s.area Config.offReadPosition 2) 0) = r
  generalize s.writePosition = w
  constructor
  · intro h
    simp [← h]
  · intro h
    have h' : r - w - 1 = 0 := BitVec.eq_of_toNat_eq (by simpa using h)
    bv_omega

theorem room_lt (s : State) : s.room < 512 := BitVec.isLt _

/-- A record place is none of the next ones that there is room for. -/
theorem place_ne (w : BitVec 9) {i j : Nat} (hi : i < 512) (hj : j < 512) (ne : i ≠ j) :
    (w + BitVec.ofNat 9 i).toNat ≠ (w + BitVec.ofNat 9 j).toNat := by
  simp only [BitVec.toNat_add, BitVec.toNat_ofNat]
  have := w.isLt
  omega

/-! ## One append -/

/-- The state after an append that is made (R177, R179). -/
def appended (s : State) (e : LogEvent) : State :=
  { s with
    mem := s.appendMem e s.stationTime (s.recordCells e.stream)
    writePosition := s.writePosition + 1
    control := { s.control with interrupt := s.control.interrupt || s.notified e.kind } }

/-- With no BERR to come an append is made, or the log is full and LOG_FULL is caused (R177). -/
theorem report_of_quiet (h : s.bus = []) (e : LogEvent) : s.report e =
    if s.room = 0 then
      s.cause .logFull { stream := e.stream, slot := 0xFF, lane := 0xFF, address := e.kind.code.setWidth 32 }
    else s.appended e := by
  unfold report append
  split
  · rename_i r
    rw [appendAt_of_quiet_full h _ _ _ ((full_iff_room s).mpr r)]
  · rename_i r
    rw [appendAt_of_quiet h _ _ _ fun f => r ((full_iff_room s).mp f)]
    rfl

@[simp] theorem appended_bus (s : State) (e : LogEvent) : (s.appended e).bus = s.bus := rfl
@[simp] theorem appended_areaAddr (s : State) (e : LogEvent) (off : Nat) :
    (s.appended e).areaAddr off = s.areaAddr off := rfl
@[simp] theorem appended_writePosition (s : State) (e : LogEvent) :
    (s.appended e).writePosition = s.writePosition + 1 := rfl
@[simp] theorem appended_stationTime (s : State) (e : LogEvent) : (s.appended e).stationTime = s.stationTime := rfl
@[simp] theorem appended_recordBytes (s : State) (e e' : LogEvent) (time : Word) :
    (s.appended e).recordBytes time e' = s.recordBytes time e' := rfl
@[simp] theorem appended_conds (s : State) (e : LogEvent) : (s.appended e).conds = s.conds := rfl
@[simp] theorem appended_notifyMask (s : State) (e : LogEvent) :
    (s.appended e).control.notifyMask = s.control.notifyMask := rfl
@[simp] theorem appended_interrupt (s : State) (e : LogEvent) :
    (s.appended e).control.interrupt = (s.control.interrupt || s.notified e.kind) := rfl

theorem length_le16 (v : Half) : (le16 v).length = 2 := rfl

/-- Memory after an append that is made: the record, then the write position (R177, R178). -/
theorem appended_mem (s : State) (e : LogEvent) : (s.appended e).mem =
    memWriteRun
      (memWriteRun s.mem (s.areaAddr (Config.offLog + Config.logSize * s.writePosition.toNat))
        (s.recordBytes s.stationTime e))
      (s.areaAddr Config.offWritePosition) (le16 ((s.writePosition + 1).setWidth 16)) := by
  rw [recordBytes_eq]
  rfl

theorem appended_wf (wf : Memory.wf s.mem = true) (e : LogEvent) : Memory.wf (s.appended e).mem = true :=
  Memory.wf_memWriteRun (Memory.wf_memWriteRun wf _ _) _ _

/-- A record lies within the area. -/
theorem record_lt (s : State) {i : Nat} (hi : i < 16) :
    Config.offLog + Config.logSize * s.writePosition.toNat + i < 2 ^ 32 := by
  have w := s.writePosition.isLt
  simp only [Config.offLog, Config.logSize]
  omega

/-- The write-position field lies outside the log. -/
theorem position_ne_record (s : State) {i j : Nat} (_ : i < 16) (hj : j < 2) :
    Config.offWritePosition + j ≠ Config.offLog + Config.logSize * s.writePosition.toNat + i := by
  simp only [Config.offLog, Config.logSize, Config.offWritePosition]
  omega

/-- Two bytes of the area at different offsets are at different addresses. -/
theorem areaAddr_add (s : State) (off i : Nat) :
    s.areaAddr off + BitVec.ofNat 32 i = s.areaBase + BitVec.ofNat 32 (off + i) := by
  unfold areaAddr
  rw [BitVec.add_assoc, ← BitVec.ofNat_add]

theorem area_offset_ne (s : State) {off i off' i' : Nat} (h : off + i < 2 ^ 32) (h' : off' + i' < 2 ^ 32)
    (ne : off + i ≠ off' + i') :
    (s.areaAddr off + BitVec.ofNat 32 i).toNat ≠ (s.areaAddr off' + BitVec.ofNat 32 i').toNat := by
  rw [areaAddr_add, areaAddr_add]
  exact addr_ne_of_lt h h' ne

/-- An append that is made changes no byte outside its record and the write-position field (R177). -/
theorem memRead_appended (e : LogEvent) {a : Nat} (h : outside s.areaAddr s.logRanges a) :
    memRead (s.appended e).mem a = memRead s.mem a := by
  have h1 := h _ (List.mem_cons_self ..)
  have h2 := h (Config.offWritePosition, 2) (by simp [logRanges])
  refine Eq.trans (memRead_memWriteRun_of_not_mem ?_) (memRead_memWriteRun_of_not_mem ?_)
  · exact h2
  · exact h1

/-- An append that is made changes no area range apart from its record and the write-position field. -/
theorem area_appended (e : LogEvent) {off len : Nat} (lt : off + len < 2 ^ 32)
    (record : ∀ i j, i < len → j < 16 → off + i ≠ Config.offLog + Config.logSize * s.writePosition.toNat + j)
    (position : ∀ i j, i < len → j < 2 → off + i ≠ Config.offWritePosition + j) :
    (s.appended e).area off len = s.area off len := by
  apply memReadRun_congr
  intro i hi
  refine memRead_appended e fun r mem j hj => ?_
  have w := s.writePosition.isLt
  simp only [logRanges, List.mem_cons, List.not_mem_nil, or_false] at mem
  rcases mem with rfl | rfl
  · refine area_offset_ne s ?_ (by omega) fun h => record i j hi hj h.symm
    simp only [Config.offLog, Config.logSize] at hj ⊢
    omega
  · refine area_offset_ne s ?_ (by omega) fun h => position i j hi hj h.symm
    simp only [Config.offWritePosition] at hj ⊢
    omega

/-- An append leaves the host's read position, so the room falls by one. -/
theorem room_appended (e : LogEvent) (r : s.room ≠ 0) : (s.appended e).room + 1 = s.room := by
  have a : (s.appended e).area Config.offReadPosition 2 = s.area Config.offReadPosition 2 := by
    refine area_appended e (by decide) ?_ ?_ <;> intro i j hi hj <;>
      simp only [Config.offReadPosition, Config.offLog, Config.logSize, Config.offWritePosition] <;> omega
  unfold room at *
  rw [a, appended_writePosition]
  generalize BitVec.setWidth 9 (le16At (s.area Config.offReadPosition 2) 0) = p at *
  generalize s.writePosition = w at *
  bv_omega

/-- The record that an append writes, read back (R178). -/
theorem memReadRun_record (wf : Memory.wf s.mem = true) (e : LogEvent) (time : Word) (a : Word) :
    memReadRun (memWriteRun s.mem a (s.recordBytes time e)) a 16 = s.recordBytes time e :=
  memReadRun_memWriteRun_self wf a (s.recordBytes time e) (by rw [length_recordBytes]; norm_num)

/-- The record that an append writes (R178). -/
theorem area_appended_record (wf : Memory.wf s.mem = true) (e : LogEvent) :
    (s.appended e).area (Config.offLog + Config.logSize * s.writePosition.toNat) 16 =
      s.recordBytes s.stationTime e := by
  refine Eq.trans (memReadRun_congr fun i hi => ?_)
    (memReadRun_record wf e s.stationTime (s.areaAddr (Config.offLog + Config.logSize * s.writePosition.toNat)))
  rw [appended_mem]
  refine memRead_memWriteRun_of_not_mem fun j hj => ?_
  rw [length_le16] at hj
  exact area_offset_ne s (by simp only [Config.offWritePosition]; omega) (record_lt s hi)
    (position_ne_record s hi hj)

/-- A write-position field, read back (R177). -/
theorem memReadRun_position {m : Memory} (wf : Memory.wf m = true) (a : Word) (v : Half) :
    memReadRun (memWriteRun m a (le16 v)) a 2 = le16 v :=
  memReadRun_memWriteRun_self wf a (le16 v) (by rw [length_le16]; norm_num)

/-- The write-position field after an append (R177). -/
theorem area_appended_position (wf : Memory.wf s.mem = true) (e : LogEvent) :
    (s.appended e).area Config.offWritePosition 2 = le16 ((s.appended e).writePosition.setWidth 16) :=
  memReadRun_position (Memory.wf_memWriteRun wf _ _) _ _

/-! ## Appends in order -/

/-- With no BERR to come appends to a full log leave memory and the write position alone. -/
theorem reportAll_of_full (h : s.bus = []) (r : s.room = 0) (es : List LogEvent) :
    (s.reportAll es).mem = s.mem ∧ (s.reportAll es).writePosition = s.writePosition ∧
      (s.reportAll es).control = s.control ∧
      (es ≠ [] → (s.reportAll es).conds.flags.getLsbD (Condition.logFull.code - 1) = true) := by
  induction es generalizing s with
  | nil => exact ⟨rfl, rfl, rfl, fun n => absurd rfl n⟩
  | cons e es ih =>
    rw [reportAll, report_of_quiet h, if_pos r]
    generalize hw : (FaultWhere.mk e.stream 0xFF 0xFF (e.kind.code.setWidth 32)) = w
    obtain ⟨m, p, c, f⟩ := ih (s := s.cause .logFull w) h r
    refine ⟨m, p, c, fun _ => ?_⟩
    cases es with
    | nil =>
      have bit : Condition.logFull.bit.getLsbD (Condition.logFull.code - 1) = true := by decide
      exact (BitVec.getLsbD_or ..).trans (by rw [bit, Bool.or_true])
    | cons e' es' => exact f (List.cons_ne_nil _ _)

/-- With no BERR to come appends in order change no byte outside the records that there is room for and the
write-position field (R177). -/
theorem memRead_reportAll (h : s.bus = []) (es : List LogEvent) {a : Nat}
    (out : outside s.areaAddr (s.logSpan (min es.length s.room)) a) :
    memRead (s.reportAll es).mem a = memRead s.mem a := by
  induction es generalizing s with
  | nil => rfl
  | cons e es ih =>
    by_cases r : s.room = 0
    · rw [(reportAll_of_full h r _).1]
    · have room := room_appended e r
      have some : min (e :: es).length s.room = min es.length (s.appended e).room + 1 := by
        simp only [List.length_cons]
        omega
      rw [some] at out
      have place : ∀ k, k < min es.length (s.appended e).room + 1 → ∀ i, i < 16 →
          (s.areaAddr (Config.offLog + Config.logSize * (s.writePosition + BitVec.ofNat 9 k).toNat)
            + BitVec.ofNat 32 i).toNat ≠ a := by
        intro k hk
        refine out (_, Config.logSize) ?_
        simp only [logSpan, Nat.add_one_ne_zero, if_false, List.mem_cons, List.mem_map, List.mem_range]
        exact .inr ⟨k, hk, rfl⟩
      have field : ∀ i, i < 2 → (s.areaAddr Config.offWritePosition + BitVec.ofNat 32 i).toNat ≠ a :=
        out (Config.offWritePosition, 2) (by simp [logSpan])
      rw [reportAll, report_of_quiet h, if_neg r]
      rw [ih (s := s.appended e) h]
      · refine memRead_appended e fun x mem => ?_
        simp only [logRanges, List.mem_cons, List.not_mem_nil, or_false] at mem
        rcases mem with rfl | rfl
        · have p := place 0 (by omega)
          rw [BitVec.add_zero] at p
          exact p
        · exact field
      · intro x mem
        unfold logSpan at mem
        split at mem
        · simp at mem
        · simp only [List.mem_cons, List.mem_map, List.mem_range, appended_writePosition] at mem
          rcases mem with rfl | ⟨k, hk, rfl⟩
          · exact field
          · have p := place (k + 1) (by omega)
            rw [Nat.add_comm k 1, BitVec.ofNat_add, ← BitVec.add_assoc] at p
            exact p

/-- With no BERR to come, appends in order do what `Logged` says (R177 to R179). -/
theorem reportAll_logged (h : s.bus = []) (wf : Memory.wf s.mem = true) (es : List LogEvent) :
    s.Logged (s.reportAll es) s.stationTime es := by
  induction es generalizing s with
  | nil =>
    refine ⟨by simp [reportAll], fun k e mem => by simp at mem, fun n => absurd rfl n, fun lt => ?_, by simp [reportAll]⟩
    simp at lt
  | cons e es ih =>
    by_cases r : s.room = 0
    · obtain ⟨m, p, c, f⟩ := reportAll_of_full h r (e :: es)
      exact ⟨by simp [p, r], fun k _ _ lt => absurd lt (by omega), fun _ lt => absurd lt (by omega),
        fun _ => f (List.cons_ne_nil _ _), by simp [c, r]⟩
    · have less := room_appended e r
      have bound := room_lt s
      have eq : s.reportAll (e :: es) = (s.appended e).reportAll es := by
        rw [reportAll, report_of_quiet h, if_neg r]
      have ih := ih (s := s.appended e) h (appended_wf wf e)
      have kept := fun a => memRead_reportAll (s := s.appended e) (a := a) h es
      have base : ∀ off, ((s.appended e).reportAll es).areaAddr off = s.areaAddr off :=
        fun off => (reportAll_frame es (s.appended e)).areaAddr off
      rw [eq]
      refine ⟨?_, ?_, ?_, ?_, ?_⟩
      · rw [ih.count, appended_writePosition, BitVec.add_assoc]
        have : min (e :: es).length s.room = 1 + min es.length (s.appended e).room := by
          simp only [List.length_cons]
          omega
        rw [this, BitVec.ofNat_add]
        rfl
      · intro k e' mem lt
        cases k with
        | zero =>
          obtain rfl : e = e' := by simpa using mem
          rw [BitVec.add_zero, ← area_appended_record wf]
          unfold area
          rw [base, appended_areaAddr]
          apply memReadRun_congr
          intro i hi
          refine kept _ fun x span j hj => ?_
          have w := s.writePosition.isLt
          unfold logSpan at span
          split at span
          · simp at span
          · simp only [List.mem_cons, List.mem_map, List.mem_range, appended_writePosition] at span
            rcases span with rfl | ⟨k, hk, rfl⟩
            · have hj : j < 2 := hj
              rw [appended_areaAddr]
              refine area_offset_ne s ?_ ?_ ?_ <;>
                simp only [Config.offLog, Config.logSize, Config.offWritePosition] <;> omega
            · have hj : j < 16 := hj
              have ne := place_ne s.writePosition (i := 1 + k) (j := 0) (by omega) (by omega) (by omega)
              rw [BitVec.ofNat_add, ← BitVec.add_assoc, BitVec.add_zero] at ne
              have lt' := (s.writePosition + 1 + BitVec.ofNat 9 k).isLt
              have ne : (s.writePosition + 1 + BitVec.ofNat 9 k).toNat ≠ s.writePosition.toNat := ne
              rw [appended_areaAddr]
              refine area_offset_ne s ?_ ?_ ?_ <;> simp only [Config.offLog, Config.logSize] <;> omega
        | succ k =>
          have prev := ih.record k e' (by simpa using mem) (by omega)
          rw [appended_writePosition, appended_stationTime, appended_recordBytes] at prev
          rw [Nat.add_comm k 1, BitVec.ofNat_add, ← BitVec.add_assoc]
          exact prev
      · intro _ _
        by_cases more : es ≠ [] ∧ 0 < (s.appended e).room
        · exact ih.position more.1 more.2
        · have none : min es.length (s.appended e).room = 0 := by
            by_cases n : es = []
            · simp [n]
            · have : ¬0 < (s.appended e).room := fun z => more ⟨n, z⟩
              omega
          have wp : ((s.appended e).reportAll es).writePosition = (s.appended e).writePosition := by
            simp [ih.count, none]
          rw [wp, ← area_appended_position wf]
          unfold area
          rw [base, appended_areaAddr]
          apply memReadRun_congr
          intro i hi
          refine kept _ ?_
          rw [none]
          intro x mem
          simp [logSpan] at mem
      · intro lt
        exact ih.dropped (by simp only [List.length_cons] at lt; omega)
      · rw [ih.interrupt, ← less]
        simp [notified, Bool.or_assoc]

/-- With no BERR to come, one append does what `Logged` says (R177 to R179). -/
theorem report_logged (h : s.bus = []) (wf : Memory.wf s.mem = true) (e : LogEvent) :
    s.Logged (s.report e) s.stationTime [e] := reportAll_logged h wf [e]

/-! ## Conditions in order -/

@[simp] theorem condsAfter_nil (s : State) : s.condsAfter [] = s.conds := by
  unfold condsAfter
  split
  · next h => simp [← h.2]
  · rfl

/-- A condition caused first is the first of the list (R155, R158). -/
theorem cause_condsAfter (c : Condition) (w : FaultWhere) (cs : List (Condition × FaultWhere)) (s : State) :
    (s.cause c w).condsAfter cs = s.condsAfter ((c, w) :: cs) := by
  cases running : decide (s.control.part = .running) <;> cases idle : s.conds.haltPending <;>
    cases hit : (decide (c = .boardBus) || c.inMask s.conds.haltMask) <;>
    cases named : w.stream <;> cases set : s.clock.origin <;>
    simp_all [condsAfter, cause, halts, capture, stationTime, unit]

/-- Causing one condition (R155). -/
theorem cause_conds (c : Condition) (w : FaultWhere) (s : State) : (s.cause c w).conds = s.condsAfter [(c, w)] := by
  rw [← cause_condsAfter, condsAfter_nil]

/-- A condition that comes when `b` holds. -/
theorem causeIf_condsAfter (b : Bool) (c : Condition) (w : FaultWhere) (cs : List (Condition × FaultWhere))
    (s : State) : (s.causeIf b c w).condsAfter cs = s.condsAfter ((if b then [(c, w)] else []) ++ cs) := by
  cases b
  · rfl
  · exact cause_condsAfter c w cs s

/-- The LOG_FULL of an append is that of a full log (R177). -/
theorem fullCauses_of_full (h : s.full) (kind : LogKind) : s.fullCauses kind =
    [(.logFull, { stream := none, slot := 0xFF, lane := 0xFF, address := kind.code.setWidth 32 })] := by
  simp [fullCauses, (full_iff_room s).1 h]

theorem fullCauses_of_room (h : ¬s.full) (kind : LogKind) : s.fullCauses kind = [] := by
  simp [fullCauses, mt (full_iff_room s).2 h]

end Sys2Proof.Machine.State
end

