-- ==== Sys2Proof/Laws/Stop.lean ====
section
/-! SUPPORT. STOP with work under way: when a piece of work does nothing, when none of its transfers counts as met by BERR
after the acceptance, what the acceptance leaves, and what a teardown does that may not write. -/

namespace Sys2Proof.Machine.State

variable {s : State}

/-- STOP comes nowhere into a command of its own, so nothing is left out of it. -/
@[simp] theorem unlessStopped_noStop (f : State → State) (s : State) : s.unlessStopped noStop f = f s := rfl

/-- Work does nothing where it may not start (R156). -/
theorem workStep_of_not_mayStart (w : Work) (stopped : State → Bool) (h : s.mayStart = false) :
    s.workStep w stopped = s := by
  cases w
  · simp [workStep, visitStep, h]
  · simp [workStep, announcementStep, startAfter, h]
  · simp [workStep, clockStep, h]
  · simp [workStep, windowStep, h]
  · simp only [workStep, messageStep, startAfter, h]
    split <;> rfl

/-- A plan without BERR stays one when it is filled up. -/
theorem fillPlan_quiet {k : Nat} {plan : List (Option Nat)} (h : ∀ x ∈ plan, x = none) :
    ∀ x ∈ fillPlan k plan, x = none := by
  intro x mem
  rcases List.mem_append.mp mem with m | m
  · exact h x m
  · exact (List.mem_replicate.mp m).2

/-- Where the plan holds no BERR, none was met after the acceptance of STOP. -/
theorem completeWork_of_no_berr {u : UnderWay} (h : ∀ x ∈ u.env.berr, x = none) : (s.completeWork u).1 = false := by
  simp only [completeWork, Bool.not_eq_false']
  refine endedWellFrom_of_endedWell _ (List.all_eq_true.mpr fun x mem => ?_)
  simp [fillPlan_quiet h x (List.mem_of_mem_take mem)]

/-- Where the plan holds BERR only for transfers made before the acceptance, none was met after it. -/
theorem completeWork_of_berr_before {u : UnderWay} (h : ∀ x ∈ (fillPlan u.made u.env.berr).drop u.made, x = none) :
    (s.completeWork u).1 = false := by
  simp only [completeWork, Bool.not_eq_false']
  refine List.all_eq_true.mpr fun x mem => ?_
  rw [List.drop_take] at mem
  simp [h x (List.mem_of_mem_take mem)]

/-- Work under way that may not start leaves the host's writes alone, and STOP comes as without it. -/
theorem completeWork_of_not_mayStart {u : UnderWay} (h : s.mayStart = false) :
    s.completeWork u = (false, (s.beginBus u.env).endBus) := by
  have h : (s.beginBus { u.env with berr := fillPlan u.made u.env.berr }).mayStart = false := h
  simp only [completeWork, workStep_of_not_mayStart _ _ h]
  simp [endedWellFrom, endBus, beginBus]

/-- The acceptance of STOP makes the part STOPPING and clears the halt pending, whatever is under way (R156, R175). -/
theorem takeStop_stopping (u : Option UnderWay) (s : State) :
    (s.takeStop u).control.part = .stopping ∧ (s.takeStop u).conds.haltPending = none := by
  cases u <;> exact ⟨rfl, rfl⟩

/-- STOP with work under way is the acceptance on the state that the work leaves. -/
theorem takeStop_some (u : UnderWay) (s : State) :
    s.takeStop (some u) = (s.completeWork u).2.acceptStop (s.completeWork u).1 := rfl

/-- A teardown after a BERR in the work of step 1 makes its internal steps alone (R175). -/
theorem teardown_of_stopBerr (h : s.control.stopBerr = true) : s.teardown = s.emptyScheduler.setPart .stopped := by
  simp [teardown, h]

end Sys2Proof.Machine.State
end

