-- ==== Sys2Proof/Tests/Slice0.lean ====
section
/-! SUPPORT. Tests: the well-formedness smoke, the reading of register writes, the manual's worked figures, and for
each statement with hypotheses a concrete state that meets them. -/

namespace Sys2Proof.Tests

open Sys2Proof.Machine

set_option Elab.async false

/-! ## Small states -/

/-- The state that a command answers with; every command answers with a next state. -/
def after (c : Instr) (s : State) : State :=
  match exec c s with
  | .next t => t
  | .fault _ => s
  | .refused _ => s

/-- The reset state in another part state. -/
def inPart (p : PartState) : State := { State.reset with control := { Control.reset with part := p } }

/-- A stream configuration: enabled, INTERNAL, 1200 bit/s, ceiling 90 percent. -/
def config : StreamConfig :=
  { enabled := true, source := .intern, variant := 9, region := 5, switchThreshold := 3, quietThreshold := 5,
    feedCeiling := 6, burst := 2, interval := 8, rate := 1200, ceiling := 90 }

/-- A LIVE unit with its decision asked for. -/
def liveUnit : StreamUnit :=
  { StreamUnit.reset with output := .live, config := config, divisor := 13652, buffer := .forming, asked := true }

/-- A part RUNNING with its four streams LIVE. -/
def live : State :=
  { inPart .running with
    units := .replicate 4 liveUnit, general := { GeneralConfig.reset with fclk := 16384 } }

/-- A part with a change of stream 0's unit. -/
def withUnit (u : StreamUnit) (s : State) : State := s.setUnit 0 u

/-- A cell. -/
def cell : AirCell :=
  { kind := .fill, part := PartField.single, level := 0, variant := 9, payload := .replicate 8 0 }

/-- An announcement of the board at level 3 with a hold. -/
def announcement (hold : Nat) : Announcement :=
  { origin := .board, number := 7, kind := 2, level := 3, duration := 10, hold := hold, mask := 1, beginTime := 0 }

/-- An announcement CURRENT on stream 0. -/
def announced (a : Announcement) : State :=
  (live.setAnnouncement 0 (some a)).setPositions 0
    { current := some { entry := 0, level := a.level, arrival := 0 }, suspended := [], waiting := [], arrivals := 1 }

/-- An item of four generic cells. -/
def shadow : Shadow :=
  { slot := 2, kind := .generic, cls := 1, desk := 0, feedName := false, address := 0x1000, length := 32, m := 4,
    period := 1000, notBefore := 0, expiry := 0, limit := 1, taken := 5, outcome := .none, closing := none,
    airTotal := 0, slipTotal := 0, lastAired := 0 }

/-- Its lane on stream 0: P of 1000 tenths at 1200 bit/s is 1250. -/
def lane : Lane :=
  { source := .item 0, stream := 0, cls := 1, period := 1250, m := 4, countdown := 0, air := 0, load := 210,
    repetition := .idle, closing := none, fresh := false }

/-- A part that holds the item, with a window that contains its payload for every desk. -/
def carrying (l : Lane) : State :=
  let s := ((live.setShadow 0 (some shadow)).setLane 0 (some l)).setCommitted 0 210
  { s with port := { s.port with windows := s.port.windows.set 0 ⟨0x1000, 0x1FFF, 0, true, true⟩ } }

/-! ## Well-formed commands and register writes -/

theorem test_wf_refused_codes :
    [0, 7, 255].all (fun k => (Instr.commandRefused (BitVec.ofNat 32 k)).wf) = true := by decide

theorem test_ill_formed_refused_codes :
    [1, 2, 3, 4, 5, 6, 0x101].all (fun k => !(Instr.commandRefused (BitVec.ofNat 32 k)).wf) = true := by decide

theorem test_wf_ignored_offsets :
    [0x00, 0x0C, 0x14, 0x18, 0x1C].all (fun k => (Instr.registerWriteIgnored k 1).wf) = true := by decide

theorem test_ill_formed_ignored_offsets :
    [0x04, 0x08, 0x10, 0x20, 0x01].all (fun k => !(Instr.registerWriteIgnored k 1).wf) = true := by decide

theorem test_command_codes :
    [0, 1, 2, 3, 4, 5, 6, 7].map (fun k => Instr.ofCommand (BitVec.ofNat 32 (0xAB00 + k))) =
      [.commandRefused 0xAB00, .start, .stop none, .resume, .reload, .ack, .reset, .commandRefused 0xAB07] := by decide

theorem test_register_writes :
    Instr.ofRegisterWrite 0x04 0x400 = some (.baseWrite 0x400) ∧
    Instr.ofRegisterWrite 0x10 3 = some (.condWrite 3) ∧ Instr.ofRegisterWrite 0x08 1 = some .start ∧
    Instr.ofRegisterWrite 0x20 1 = none := by decide

theorem test_no_word_spells_a_command : decodeTableWord 8 1 = none := rfl

/-! ## The manual's worked figures -/

/-- R65's table. -/
theorem test_periods :
    periodCells 20 1200 = 25 ∧ (periodCells 1 300 = 1 ∧ periodClamps 1 300 = true) ∧ periodCells 3 2400 = 8 ∧
    (periodCells 36000 4800 = 65535 ∧ periodClamps 36000 4800 = true) := by decide

/-- R67's figures. -/
theorem test_loads :
    laneLoad 2 25 = 5243 ∧ laneLoad 4 125 = 2098 ∧ ceilingUnits 90 = 58982 ∧ ceilingUnits 10 = 6553 := by decide

/-- R21's and R121's divisors. -/
theorem test_divisors :
    bitDivisorOf 16384 1200 = 13652 ∧ bitDivisorOf 50000 4800 = 10416 ∧ bitDivisorOf 1000 300 = 3332 ∧
    bitDivisorOf 1000 4800 = 207 ∧ feedDivisorOf 16384 9600 = 106 ∧ feedErrorAbove3 16384 9600 = false ∧
    feedErrorAbove3 1000 19200 = true := by decide

/-- R49's example. -/
theorem test_window_bounds :
    let w := windowOf [0x02, 0x40, 0x10, 0x00, 0xFD, 0x4F, 0x10, 0x00, 0x05, 0x03]
    w.low = 0x00104000 ∧ w.high = 0x00104FFF ∧ w.desk = 5 ∧ w.enabled = true ∧ w.global = true := by decide

/-- R184: window 1 is read from bytes 12 to 23, its flags and desk tag by the bits R186 names. -/
theorem test_windows_stride :
    let w := (windowsOf (List.replicate 12 0 ++ [1, 2, 0, 0, 8, 2, 0, 0, 0xF7, 0xFD, 0, 0]))[(1 : Fin 8)]
    (w.low, w.high, w.desk, w.enabled, w.global) = (0x200, 0x20B, 7, true, false) := by decide

/-! ## One command each -/

theorem test_start : (after .start State.reset).control.part = .starting := by decide +kernel

theorem test_start_refused : (after .start live).stat = 0x22 := by decide +kernel

theorem test_resume : (after .resume (inPart .held)).control.part = .running := by decide +kernel

theorem test_ack_in_every_state : (after .ack (inPart .stopping)).control.refused = false := by decide +kernel

theorem test_cond_write :
    (after (.condWrite 0x5) (State.reset.cause .fetchWindow State.nowhere)).conds.flags = 0 := by decide +kernel

theorem test_underrun_sets_cond : (after (.slotOpen 0) live).conds.flags = 0x8 := by decide +kernel

theorem test_slot_counts_down :
    ((after (.slotOpen 0) (carrying { lane with countdown := -65535 })).lane 0).map Lane.countdown = some (-65535) := by
  decide +kernel

theorem test_decision_selects :
    ((after (.slotDecision 0 Env.quiet) (carrying { lane with countdown := -1 })).lane 0).map Lane.countdown =
      some 1249 := by decide +kernel

theorem test_window_fault_skips :
    (after (.slotDecision 0 Env.quiet) { carrying lane with port := MemoryPort.reset }).conds.flags = 0x4 := by
  decide +kernel

theorem test_tick_of_held_part : (after .tick100ms (inPart .held)).time = { TimeBase.reset with tenths := 1 } := by
  decide +kernel

theorem test_withFetchWord : State.reset.withFetchWord 8 1 = State.reset := rfl

/-! ## Witnesses: for each statement a state and operands that meet its hypotheses, one for each clause

States built from the ones above; `berr k` is a plan whose first transfer meets BERR after k bytes. -/

theorem next_after (c : Instr) (s : State) : exec c s = .next (after c s) := by cases c <;> rfl

/-- A fact about the lanes in use, from a test of every lane. -/
theorem of_lanes {s : State} {p : LaneId → Lane → Bool} (h : ∀ i, (s.lane i).all (p i) = true) (i : LaneId) (l : Lane)
    (hl : s.lane i = some l) : p i l = true := by
  have := h i
  rw [hl] at this
  exact this

def berr (k : Nat) : Env := ⟨[], [some k]⟩

/-- The host's writes of a run of bytes at an address. -/
def puts (a : Nat) (bs : List Byte) : List (Word × Byte) := bs.zipIdx.map fun x => (BitVec.ofNat 32 (a + x.2), x.1)

/-- The host writes a run of bytes at an address. -/
def wrote (a : Nat) (bs : List Byte) : Env := ⟨puts a bs, []⟩

/-- A header: format, f_clk, feed rate, enable bit and bit rate of stream 0. -/
def header (format fclk feed enabled rate : Nat) : State.Header :=
  { general := [BitVec.ofNat 8 format, 0] ++ le16 (BitVec.ofNat 16 fclk) ++ List.replicate 8 0
      ++ le16 (BitVec.ofNat 16 feed) ++ List.replicate 4 0
    streams := [BitVec.ofNat 8 enabled] ++ List.replicate 9 0 ++ le16 (BitVec.ofNat 16 rate) ++ List.replicate 52 0
    windows := [], corrections := [], readPosition := [], clockSet := [], windowCheck := [], requests := [] }

/-- The host's writes of a header whose checks pass. -/
def goodHeader : Env :=
  ⟨puts 0 (header 1 16384 9600 1 1200).general ++ puts 0x40 (header 1 16384 9600 1 1200).streams, []⟩

/-- What a START finds in memory. -/
def headerIn (env : Env) (s : State) : State.Header :=
  State.headerOf (State.headerReads.map fun r => (s.seen env).area r.1 r.2)

/-- A RUNNING part with a halt pending. -/
def halting (c : Condition) : State :=
  { live with conds := { live.conds with
      haltPending := some { cause := c, place := State.nowhere, time := 0, cells := 0 } } }

/-- A part with every poll due. -/
def polling : State :=
  { live with time := { TimeBase.reset with annDue := true, clockDue := true, windowDue := true, statusDue := true } }

/-- A part with a window and every poll due. -/
def checking : State := { carrying lane with time := polling.time }

/-- A part with a clock source and feed state. -/
def clocked (c : ClockSource) (f : FeedState) : State :=
  { polling with
    clock := { polling.clock with source := c }, receiver := { polling.receiver with feed := f } }

/-- A part that owes a visit to the slot of `shadow`. -/
def visiting (s : State) : State := { s with sweep := { s.sweep with position := 2, owed := 1 } }

/-- An item record of 48 bytes: state, request number and code, kind, target byte, period, address, length. -/
def itemBytes (st req code kind targets period address length : Nat) : List Byte :=
  [BitVec.ofNat 8 st, BitVec.ofNat 8 req, BitVec.ofNat 8 code, BitVec.ofNat 8 kind, 0, BitVec.ofNat 8 targets]
    ++ le16 (BitVec.ofNat 16 period) ++ [0, 0, 0, 0] ++ le32 (BitVec.ofNat 32 address) ++ [BitVec.ofNat 8 length]
    ++ List.replicate 31 0

/-- The record of a generic item that `carrying` can hold. -/
def record : ItemRecord := itemRecordOf (itemBytes 1 0 0 6 1 1000 0x1000 32)

/-- A unit with a cell of which some bits are sent. -/
def sending (sent : Nat) : StreamUnit :=
  { liveUnit with shifter := some { cell := cell, sent := sent, source := .intern, divisor := 13652, stale := false } }

/-- A staged part. -/
def staged : StagedPart := { kind := .generic, part := { last := true, index := 3 }, payload := .replicate 8 1 }

/-- A stream at level 3 with a stack and a waiting list. -/
def annStream (waiting : List Nat) : AnnStream :=
  { current := some { entry := 0, level := 3, arrival := 0 }, suspended := [{ entry := 1, level := 2, arrival := 1 }]
    waiting := waiting.map fun k => { entry := 2, level := k, arrival := 2 }, arrivals := 9 }

/-- An active receiver with a message in assembly. -/
def hearing (f : FeedState) (bs : List Byte) : State :=
  { live with receiver := { Receiver.reset with
      active := true, state := .collect, matched := 1, assembly := bs, feed := f } }

/-- A part with a feed message in its ready slot. -/
def toldIn (s : State) (type : Byte) (body : List Byte) : State :=
  { s with receiver := { s.receiver with ready := some { type := type, body := body, matched := 1 } } }

/-- A NOTICE body: id 5, urgency 2, life 1 minute, no text. -/
def noticeBody : List Byte := [0, 5, 2, 0, 1, 0, 0, 0, 0, 0, 0]

theorem witness_ClockCycleCountsToTick :
    let s := fun k => { live with time := { TimeBase.reset with cycles := k, tenths := 9 } }
    ∀ k ∈ [1638398, 1638399], (s k).pending = [] ∧ (s k).control.part.onAir = true ∧
      ((s k).time.cycles + 1 < (s k).general.fclk * 100 ↔ k = 1638398) := by decide +kernel

/-- What a step makes of stream 0's phase, and of the queue. -/
def stepped (s : State) : Nat × List Instr :=
  match step s with
  | .next t => ((t.unit 0).phase, t.pending)
  | .fault _ => (0, [])
  | .refused _ => (0, [])

/-- The bit clock one cycle before its edge and at it, between cells and at the first, the 95th and the last bit. -/
theorem witness_ClockCycleCountsToTick_edges :
    let clock := fun (u : StreamUnit) (phase : Nat) => stepped (withUnit { u with phase := phase } live)
    [clock liveUnit 13651, clock liveUnit 13652, clock (sending 0) 13651, clock (sending 0) 13652,
      clock (sending 94) 13652, clock (sending 95) 13652, clock (sending 96) 13652] =
    [(13652, []), (0, [.slotOpen 0]), (13652, []), (0, [.bitTime 0]), (0, [.bitTime 0]),
      (0, [.bitTime 0, .slotOpen 0]), (0, [.slotOpen 0])] := by decide +kernel

/-- The last bit of a cell, and no cell, in the other part states: HELD, STOPPING, and STOPPED with the stream OFF. -/
theorem witness_ClockCycleCountsToTick_offAir :
    let cycle := fun (p : PartState) (o : OutputState) (u : StreamUnit) =>
      let s := { inPart p with units := .replicate 4 StreamUnit.reset }
      stepped (s.setUnit 0 { u with output := o, phase := 13652 })
    [cycle .held .live (sending 95), cycle .held .live liveUnit, cycle .stopping .live (sending 95),
      cycle .stopping .live liveUnit, cycle .stopped .off (sending 95), cycle .stopped .off (sending 96)] =
    [(0, [.tick100ms, .bitTime 0, .slotOpen 0]), (0, [.tick100ms, .slotOpen 0]), (0, [.bitTime 0, .streamOff 0]),
      (13652, [.streamOff 0]), (0, [.bitTime 0, .streamOff 0]), (13652, [])] := by decide +kernel

theorem witness_CommandsByPartState :
    live.control.part = .running ∧ (inPart .held).control.part = .held ∧
    (∀ p ∈ [PartState.stopped, .starting, .stopping], ¬((inPart p).control.part = .running ∨
      (inPart p).control.part = .held)) ∧
    (∀ k ∈ List.range 256, (BitVec.ofNat 32 k).setWidth 8 = BitVec.ofNat 8 k) := by decide +kernel

theorem witness_BaseChangesOnlyWhileStopped :
    State.reset.control.part = .stopped ∧ live.control.part ≠ .stopped ∧
    (after (.baseWrite 0x400) State.reset).control.base ≠ State.reset.control.base ∧
    (after .rstN (after (.baseWrite 0x400) State.reset)).control.base ≠ 0x400 := by decide +kernel

theorem witness_CondFlagsAreSticky :
    let s := State.reset.cause .valueClamp State.nowhere
    s.conds.flags.getLsbD 12 = true ∧ (after (.condWrite 0x1000) s).conds.flags.getLsbD 12 = false ∧
    (after .rstN s).conds.flags.getLsbD 12 = false ∧
      (0x1000 : Word).getLsbD (Condition.valueClamp.code - 1) = true := by
  decide +kernel

theorem witness_PartStateMoves :
    let moves := fun c (s : State) => (after c s).control.part ≠ s.control.part
    moves .reset live ∧ moves .start State.reset ∧ moves (.startCompletion Env.quiet) (inPart .starting) ∧
    moves (.startCompletion goodHeader) (inPart .starting) ∧ moves (.enterHeld Env.quiet) (halting .underrun) ∧
    moves .resume (inPart .held) ∧ moves (.stop none) live ∧ moves (.stopTeardown Env.quiet) (inPart .stopping) := by
  decide +kernel

theorem witness_ResetCommands :
    ((live.unit 0).shifterReady = true) ∧ ((withUnit (sending 96) live).unit 0).shifterReady = true ∧
    (∀ k ∈ [0, 95], ∃ sh, ((withUnit (sending k) live).unit 0).shifter = some sh ∧ sh.sent < 96) := by
  refine ⟨by decide +kernel, by decide +kernel, ?_⟩
  intro k hk
  refine ⟨_, unit_setUnit_shifter k, ?_⟩
  revert k
  decide
where
  unit_setUnit_shifter (k : Nat) : ((withUnit (sending k) live).unit 0).shifter =
    some { cell := cell, sent := k, source := .intern, divisor := 13652, stale := false } := rfl

/-- Every check of START at the edges of its range. -/
theorem witness_StartChecksInOrder :
    [header 0 16384 0 1 1200, header 1 999 0 1 1200, header 1 1000 0 1 1200, header 1 50000 0 1 1200,
      header 1 50001 0 1 1200, header 1 16384 0 0 1200, header 1 16384 0 1 299, header 1 16384 0 1 300,
      header 1 16384 0 1 4800, header 1 16384 0 1 4801, header 1 16384 1199 1 1200, header 1 16384 1200 1 1200,
      header 1 50000 38400 1 1200, header 1 50000 38401 1 1200, header 1 1000 19200 1 1200].map State.configErrorOf =
    [.badFormat, .badClock, .none, .none, .badClock, .noStream, .streamRate, .none, .none, .streamRate, .feedRate,
      .none, .none, .feedRate, .feedRate] := by decide +kernel

theorem witness_StartFails :
    (inPart .starting).control.part = .starting ∧ Env.quiet.berr = [] ∧
    State.configErrorOf (headerIn Env.quiet (inPart .starting)) ≠ .none ∧ (berr 0).berr = some 0 :: [] := by
  decide +kernel

/-- BERR on the first and on the last of the eight header reads; the request numbers of the header are not taken. -/
theorem witness_StartFails_berr :
    ∀ i ∈ [0, 7],
      let env : Env := ⟨goodHeader.hostWrites ++ puts 0x141 [9], List.replicate i none ++ [some 0]⟩
      let t := after (.startCompletion env) (inPart .starting)
      env.berr = List.replicate i none ++ some 0 :: [] ∧ t.control.configError = .boardBus ∧
      t.ann.taken[(0 : RequestId)] = 0 := by decide +kernel

/-- BERR on each transfer of steps 1, 3 and 4, the ninth to the sixteenth of the START: the write position, the kind of
the log record, the ceilings of the status records of streams 0 and 2, and whether an item held is kept. -/
theorem witness_StartFails_writes :
    (List.range 8).map (fun i =>
      let env : Env := ⟨goodHeader.hostWrites, List.replicate (8 + i) none ++ [some 0]⟩
      let t := after (.startCompletion env) ((inPart .starting).setShadow 0 (some shadow))
      (t.control.configError.code, t.writePosition, t.area Config.offLog 1 ++ t.area 0x24B 1 ++ t.area 0x28B 1,
        (t.shadowAt 0).isSome)) =
    [(6, 0, [0, 0, 0], true), (6, 0, [0, 0, 0], false), (6, 0, [0, 0, 0], false), (6, 1, [0x50, 0, 0], false),
      (6, 1, [0x50, 0, 0], false), (6, 1, [0x50, 10, 0], false), (6, 1, [0x50, 10, 0], false),
      (6, 1, [0x50, 10, 10], false)] := by decide +kernel

/-- R171 at both ends: a header of zeros and one of FFH in the clamped bytes; the status records show who is LIVE. -/
theorem witness_StartCompletes_values :
    let high : Env :=
      ⟨goodHeader.hostWrites ++ puts 14 [0xFF, 0xFF, 0xFF, 0x80] ++ puts 0x44 (List.replicate 6 0xFF), []⟩
    let started := fun env => after (.startCompletion env) (inPart .starting)
    let values := fun env =>
      let c := ((started env).unit 0).config
      [c.switchThreshold, c.quietThreshold, c.feedCeiling, c.burst, c.interval, c.ceiling,
        (started env).general.defaultHold, (started env).general.silenceLimit]
    values goodHeader = [0, 0, 1, 4, 4, 10, 1, 2] ∧ values high = [7, 7, 7, 8, 64, 100, 3600, 60] ∧
    (started high).clock.offset = -24 ∧
    (started high).area 0x0240 1 = [1] ∧ (started high).area 0x0260 1 = [0] := by decide +kernel

/-- The divisors of a header that enables stream 0 alone: of an INTERNAL stream not enabled with its own bit rate, inside
and outside the range of an enabled one, and of an EXTERNAL one that held another. -/
theorem witness_StartCompletes_divisors :
    let env : Env := ⟨goodHeader.hostWrites ++ puts 0x51 [1] ++ puts 0x5A (le16 1200) ++ puts 0x61 [1]
      ++ puts 0x6A (le16 6000), []⟩
    let s := (inPart .starting).setUnit 3 { StreamUnit.reset with divisor := 9 }
    let t := after (.startCompletion env) s
    let fclk := t.general.fclk
    ([1, 2, 3].map fun n : StreamId => ((t.unit n).output, (t.unit n).divisor)) =
      [(.off, bitDivisorOf fclk 1200), (.off, bitDivisorOf fclk 6000), (.off, 0)] ∧ fclk ≠ 0 := by decide +kernel

theorem witness_StartCompletes :
    (inPart .starting).control.part = .starting ∧ goodHeader.berr = [] ∧ Memory.wf (inPart .starting).mem = true ∧
    State.configErrorOf (headerIn goodHeader (inPart .starting)) = .none ∧
    (streamConfigAt (headerIn goodHeader (inPart .starting)).streams 0).enabled = true := by decide +kernel

theorem witness_ReloadReplacesTogether :
    let s := after .reload live
    s.control.reloading = true ∧ Env.quiet.berr = [] ∧ (berr 3).berr = [some 3] ∧ s.control.part = .running ∧
    s.conds.haltPending = none := by decide +kernel

/-- BERR on the first and on the last read of a reload whose header sets every bit of the halt mask. -/
theorem witness_ReloadReplacesTogether_berr :
    ∀ i ∈ [0, 3],
      let env : Env := ⟨puts 8 [0xFF, 0xFF], List.replicate i none ++ [some 0]⟩
      let t := after (.reloadReplace env) (after .reload live)
      env.berr = List.replicate i none ++ some 0 :: [] ∧ t.conds.haltMask = 0 ∧ t.control.reloading = false ∧
      (after (.reloadReplace ⟨env.hostWrites, []⟩) (after .reload live)).conds.haltMask = 0x1FFF := by decide +kernel

theorem witness_StopTakesPartOffAir :
    live.control.part = .running ∧ (inPart .held).control.part = .held ∧
    ∀ p ∈ [PartState.stopped, .starting, .stopping], ¬((inPart p).control.part = .running ∨
      (inPart p).control.part = .held) := by decide

/-- STOP within a piece of work, the bytes at an offset written by the host, with BERR on transfer i of the work and
with `made` of its transfers made at the acceptance. -/
def stopWithin (w : Work) (off : Nat) (bytes : List Byte) (i made : Nat) (s : State) : State :=
  after (.stop (some ⟨w, ⟨puts off bytes, List.replicate i none ++ [some 0]⟩, made⟩)) s

/-- The visit of an orphan: BERR before, at and after the acceptance of STOP, and without work under way. The retire
reason is written by transfer 1, before the state byte. -/
theorem witness_StopTakesPartOffAir_visit :
    let s := visiting live
    let stopped := fun (i made : Nat) =>
      let t := stopWithin .visit 0x460 (itemBytes 2 7 0 6 1 1000 0x1000 32) i made s
      (t.control.stopBerr, t.conds.flags, t.conds.haltPending.isSome, t.area 0x47C 1 ++ t.area 0x460 1)
    (∀ e, s.holdOver e = false) ∧ (∀ j, s.lifeOf j ≠ some 0) ∧
    [stopped 1 0, stopped 1 1, stopped 1 2, stopped 2 1, stopped 9 1] =
      [(true, 1, false, [0, 2]), (true, 1, false, [0, 2]), (false, 1, false, [0, 2]), (true, 1, false, [20, 2]),
        (false, 0, false, [20, 4])] ∧
    ((after (.stop none) s).control.stopBerr, (after (.stop none) s).control.part) = (false, .stopping) := by
  decide +kernel

/-- A window check under way: answered, its answer met by BERR, its taken number met by BERR before the acceptance, and
its record not yet read at the acceptance. -/
theorem witness_StopTakesPartOffAir_check :
    let stopped := fun (i made : Nat) =>
      let t := stopWithin .windowCheck 0x110 ([1, 0, 0, 0, 0, 0, 0, 0] ++ le32 0x1000 ++ le32 0x1000) i made checking
      (t.control.stopBerr, t.port.checkTaken, t.area 0x111 3)
    (∀ e, checking.holdOver e = false) ∧ (∀ j, checking.lifeOf j ≠ some 0) ∧
    [stopped 9 1, stopped 1 1, stopped 2 3, stopped 9 0] =
      [(false, 1, [1, 0, 1]), (true, 0, [0, 0, 0]), (false, 0, [0, 0, 1]), (false, 0, [0, 0, 0])] := by decide +kernel

/-- A clock set under way: whole, the append met by BERR, and its record not yet read at the acceptance. -/
theorem witness_StopTakesPartOffAir_clock :
    let stopped := fun (i made : Nat) =>
      let t := stopWithin .clockSet 0x100 [1, 0, 0, 0, 7] i made polling
      (t.control.stopBerr, t.clock.time, t.clock.taken, t.clock.owed.isSome)
    [stopped 9 1, stopped 2 1, stopped 9 0] = [(false, 7, 1, false), (true, 7, 1, true), (false, 0, 0, false)] := by
  decide +kernel

/-- An ALERT_BEGIN under way: whole, its log append met by BERR after the acceptance of STOP and before it. -/
theorem witness_StopTakesPartOffAir_message :
    let stopped := fun (i made : Nat) =>
      let t := stopWithin .message 0 [] i made (toldIn live 2 [0, 7, 3, 1, 0, 0, 0, 0])
      (t.control.stopBerr, t.receiver.ready, t.writePosition, t.announcement 0)
    [stopped 9 0, stopped 1 0, stopped 1 2] =
      [(false, none, 1, none), (true, none, 0, none), (false, none, 0, none)] := by decide +kernel

/-- An announcement poll with two new requests: STOP at the read, after it and at the first request's answer, and BERR
on the read. -/
theorem witness_StopTakesPartOffAir_poll :
    let bytes := [1, 0, 2, 0, 7, 0, 0, 1, 0, 0, 0, 0, 0, 0, 0, 0, 2]
    let env := wrote 0x140 bytes
    let stopped := fun (i made : Nat) =>
      let t := stopWithin .announcements 0x140 bytes i made polling
      (t.control.stopBerr, t.ann.taken[(0 : Fin 8)], t.ann.taken[(1 : Fin 8)], t.area 0x141 1 ++ t.area 0x151 1)
    (polling.conds.haltPending = none ∧ polling.time.annDue = true ∧ (∀ e, polling.holdOver e = false) ∧
      env.berr = [] ∧ Memory.wf polling.mem = true ∧ polling.ann.owed[(0 : RequestId)] = none ∧
      byteAt ((polling.seen env).area 0x0140 128) 0 ≠ polling.ann.taken[(0 : RequestId)]) ∧
    [stopped 9 0, stopped 9 1, stopped 9 99, stopped 0 0, stopped 0 1] =
      [(false, 0, 0, [0, 0]), (false, 1, 0, [1, 0]), (false, 1, 2, [1, 2]), (true, 0, 0, [0, 0]),
        (false, 0, 0, [0, 0])] := by decide +kernel

/-- A teardown after a BERR in the work of step 1, with an item held: no write, no record, STOPPED. -/
theorem witness_StopTeardownRetiresAndEmpties_stopBerr :
    let s := (inPart .stopping).setShadow 0 (some shadow)
    let t := after (.stopTeardown Env.quiet) { s with control := { s.control with stopBerr := true } }
    (∀ n, (s.unit n).output = .off) ∧ t.control.part = .stopped ∧ t.shadowAt 0 = none ∧ t.mem = s.mem ∧
    t.writePosition = 0 ∧ (after (.stopTeardown Env.quiet) s).writePosition = 2 := by decide +kernel

theorem witness_StopTeardownRetiresAndEmpties :
    let s := (inPart .stopping).setShadow 0 (some shadow)
    s.control.part = .stopping ∧ (∀ n, (s.unit n).output = .off) ∧ Env.quiet.berr = [] ∧ Memory.wf s.mem = true ∧
    s.shadowAt 0 = some shadow := by decide +kernel

/-- BERR on each retirement write of the only item, and on a transfer of step 5 with no item held. -/
theorem witness_StopTeardownRetiresAndEmpties_berr :
    let down := fun (s : State) (i : Nat) => after (.stopTeardown ⟨[], List.replicate i none ++ [some 0]⟩) s
    let held := (inPart .stopping).setShadow 0 (some shadow)
    let seen := fun (t : State) =>
      (t.control.part, (t.shadowAt 0).isSome, t.conds.flags, t.writePosition, t.area 0x47C 1 ++ t.area 0x460 1)
    [seen (down held 0), seen (down held 1), seen (down (inPart .stopping) 1), seen (down (inPart .stopping) 2)] =
      [(.stopped, false, 1, 0, [0, 0]), (.stopped, false, 1, 0, [21, 0]), (.stopped, false, 1, 0, [0, 0]),
        (.stopped, false, 1, 1, [0, 0])] := by decide +kernel

theorem witness_ConditionsAndHaltPending :
    let masked := { live with conds := { live.conds with haltMask := Condition.underrun.bit } }
    (masked.control.part = .running ∧ masked.conds.haltPending = none ∧
      Condition.underrun.inMask masked.conds.haltMask = true) ∧
    ¬(Condition.feedMsg.inMask masked.conds.haltMask = true ∨ Condition.feedMsg = .boardBus) ∧
    (halting .underrun).conds.haltPending ≠ none ∧
    (after .ack (halting .underrun)).conds.haltPending = (halting .underrun).conds.haltPending ∧
    (after (.stop none) (halting .underrun)).conds.haltPending = none := by decide +kernel

theorem witness_EntryToHeld :
    (∀ c ∈ [Condition.boardBus, .fetchBus],
      let s := halting c
      s.control.part = .running ∧ s.control.reloading = false ∧
      s.conds.haltPending = some { cause := c, place := State.nowhere, time := 0, cells := 0 } ∧
      Memory.wf s.mem = true) ∧
    Env.quiet.berr = [] ∧ ¬((halting .fetchBus).seen Env.quiet).full ∧
      ((halting .fetchBus).seen (wrote 0xF0 [1])).full := by
  unfold State.full
  decide +kernel

/-- BERR on the write of the fault record, with room in the log and with none. -/
theorem witness_EntryToHeld_berr :
    let entered := fun (host : List (Word × Byte)) (k : Nat) =>
      let t := after (.enterHeld ⟨host, [some k]⟩) (halting .fetchBus)
      (t.conds.flags, t.conds.haltPending, t.writePosition, t.area 0x0200 3, t.area Config.offLog 3)
    [entered [] 1, entered [] 16, entered (puts 0xF0 [1]) 0] =
      [(1, none, 1, [2, 0, 0], [0x40, 0xFF, 2]), (1, none, 1, [2, 0xFF, 0xFF], [0x40, 0xFF, 2]),
        (0x801, none, 0, [0, 0, 0], [0, 0, 0])] := by decide +kernel

theorem witness_HeldFreezes :
    (inPart .held).control.part = .held ∧ (inPart .held).control.reloading = false ∧
    (Instr.slotOpen 0).isReset = false ∧ Instr.slotOpen 0 ≠ .resume ∧ (∀ u, Instr.slotOpen 0 ≠ .stop u) :=
    ⟨by decide, by decide, by decide, by decide, nofun⟩

theorem witness_LogAppend :
    (live.bus = [] ∧ Memory.wf live.mem = true ∧ ¬live.full) ∧ ({ live with writePosition := 0x1FF } : State).full ∧
    (¬({ live with bus := [none, some 15] } : State).full) ∧
      ¬({ live with bus := [none, none, some 0] } : State).full := by
  unfold State.full
  decide +kernel

/-- BERR on the record after each kind of count of its bytes, and on the position after 0, 1 and 2 bytes. -/
theorem witness_LogAppend_berr :
    let e : LogEvent := { kind := .itemRetired, stream := none, reason := 16, aux := 0, subject := 2 }
    let cut := fun (plan : List (Option Nat)) => ({ live with bus := plan } : State).report e
    ([0, 1, 16].map fun k => ((cut [none, some k]).area Config.offLog 3, (cut [none, some k]).writePosition)) =
      [([0, 0, 0], 0), ([3, 0, 0], 0), ([3, 0xFF, 16], 0)] ∧
    ([0, 1, 2].map fun k =>
        ((cut [none, none, some k]).area Config.offWritePosition 2, (cut [none, none, some k]).writePosition)) =
      [([0, 0], 1), ([1, 0], 1), ([1, 0], 1)] := by decide +kernel

theorem witness_StatusRecords :
    (polling.control.part = .running ∧ polling.time.statusDue = true ∧ Memory.wf polling.mem = true) ∧
    State.reset.enabled 0 = false ∧ live.enabled 0 = true ∧ (live.positions 0).current = none ∧
    ((announced (announcement 4)).positions 0).current = some { entry := 0, level := 3, arrival := 0 } ∧
    (announced (announcement 4)).announcement 0 = some (announcement 4) := by decide +kernel

/-- BERR on the write of the record of stream 2: the ceilings of streams 0 to 2 and the first byte of stream 2. -/
theorem witness_StatusRecords_berr :
    let t := after (.statusWrite ⟨[], [none, none, some 1]⟩) polling
    t.conds.flags = 1 ∧ t.time.statusDue = false ∧
    t.area 0x24B 1 ++ t.area 0x26B 1 ++ t.area 0x28B 1 ++ t.area 0x280 1 = [90, 90, 0, 1] := by decide +kernel

theorem witness_TicksByPartState :
    (∀ p ∈ [PartState.running, .held], p.onAir = true) ∧
      (∀ p ∈ [PartState.stopped, .starting, .stopping], p.onAir = false) ∧
    (after .tick100ms { live with time := { TimeBase.reset with tenths := 9 } }).time.secondDue = true ∧
    (after .tick100ms { live with sweep := { live.sweep with owed := 225 } }).sweep.owed = 256 := by decide +kernel

theorem witness_ExpiredHoldsEnd :
    let s := announced (announcement 0)
    s.control.part = .running ∧ s.announcement 0 = some (announcement 0) ∧ (announcement 0).hold = 0 ∧
    s.holdOver 0 = true ∧ (announced (announcement 1)).holdOver 0 = false := by decide +kernel

/-- Requests that come between a tick and HOLD_EXPIRED find the announcement ended: a renewing BEGIN begins afresh, an
END finds nothing, and an ALERT_END too. -/
theorem witness_ExpiredHoldsEnd_between :
    let s := { announced (announcement 0) with time := polling.time }
    let answer := fun op : Byte =>
      (after (.announcementPoll (wrote 0x140 [1, 0, op, 0, 7, 3, 0, 1])) s).area 0x0143 1
    let told := after (.feedMessageAction Env.quiet)
      (toldIn (announced { announcement 0 with origin := .feed }) 2 [7, 3, 0, 0, 9])
    s.holdOver 0 = true ∧ s.time.annDue = true ∧ answer 1 = [1] ∧ answer 2 = [5] ∧
    told.writePosition = 3 ∧ told.area Config.offLog 4 = [0x13, 0xFF, 3, 3] ∧
    ((told.announcement 0).map Announcement.hold) = some 9 := by decide +kernel

theorem witness_BoardClockSet :
    (∀ c ∈ [ClockSource.localOnly, .feed, .auto], ∀ f ∈ [FeedState.silent, .live, .lost],
      let s := clocked c f
      s.control.part = .running ∧ s.conds.haltPending = none ∧ s.time.clockDue = true ∧ s.clock.owed = none ∧
      Memory.wf s.mem = true ∧ byteAt ((s.seen (wrote 0x100 [1])).area 0x0100 16) 0 ≠ s.clock.taken) ∧
    (wrote 0x100 [1]).berr = [] := by decide +kernel

/-- An answer owed, written at a poll; and an answer of an honoured and of an ignored set that meets BERR. -/
theorem witness_BoardClockSet_owed :
    let owing : State := { polling with clock := { polling.clock with owed := some { outcome := .done, number := 9 } } }
    ((after (.clockSetPoll Env.quiet) owing).area 0x0101 2 = [9, 1] ∧
      (after (.clockSetPoll Env.quiet) owing).clock.owed = none) ∧
    ¬(polling.seen (wrote 0x100 [1])).full ∧
    ∀ i ∈ [0, 1],
      let t := fun (c : ClockSource) (n : Nat) => after
        (.clockSetPoll ⟨puts 0x100 [1, 0, 0, 0, 7], List.replicate (n + i) none ++ [some 0]⟩) (clocked c .silent)
      (t .localOnly 4).clock.owed = some { outcome := .done, number := 1 } ∧ (t .localOnly 4).clock.time = 7 ∧
      (t .localOnly 4).area 0x0101 2 = [0, if i = 0 then 0 else 1] ∧
      (t .feed 1).clock.owed = some { outcome := .ignored, number := 1 } := by
  unfold State.full
  decide +kernel

/-- BERR on each transfer of the CLOCK_SET append: the answer bytes stay, the answer is owed and DONE, the write position
counts a record that its position write alone did not show, and the next poll writes the answer. -/
theorem witness_BoardClockSet_append :
    let met := fun i : Nat => after
      (.clockSetPoll ⟨puts 0x100 [1, 0, 0, 0, 7], List.replicate i none ++ [some 0]⟩) (clocked .localOnly .silent)
    let next := fun t : State => after (.clockSetPoll Env.quiet) { t with time := polling.time, conds := CondUnit.reset }
    ∀ i ∈ [1, 2, 3], (met i).area 0x0101 2 = [0, 0] ∧
      (met i).clock.owed = some { outcome := .done, number := 1 } ∧ (met i).clock.time = 7 ∧
      (met i).writePosition = (if i = 3 then 1 else 0) ∧
      (next (met i)).area 0x0101 2 = [1, 1] ∧ (next (met i)).clock.owed = none := by decide +kernel

/-- BERR on the read of each poll, and on each write of an answer owed. -/
theorem witness_BoardClockSet_berr :
    let owing : State := { polling with clock := { polling.clock with owed := some { outcome := .done, number := 9 } } }
    ([after (.clockSetPoll (berr 0)) owing, after (.windowCheckPoll (berr 0)) polling,
        after (.announcementPoll (berr 0)) polling].map fun t => (t.conds.flags, t.mem)) = [(1, []), (1, []), (1, [])] ∧
    ([1, 2].map fun i =>
        let t := after (.clockSetPoll ⟨[], List.replicate i none ++ [some 0]⟩) owing
        (t.area 0x0101 2, t.clock.owed.map ClockOwed.number)) = [([0, 0], some 9), ([0, 1], some 9)] := by
  decide +kernel

/-- R49's windows, and the containing window at both bounds and one byte past each (R52). -/
theorem witness_WindowsLoadAndContain :
    let empty := windowOf (le32 0x2000 ++ le32 0x1FFF)
    let four := windowOf (le32 0x1001 ++ le32 0x1000)
    empty.high.toNat < empty.low.toNat ∧ four.low.toNat < four.high.toNat ∧ four.low = 0x1000 ∧ four.high = 0x1003 ∧
    [(0x1000, 0x1FFF), (0x1000, 0x1000), (0x1FFF, 0x1FFF), (0xFFF, 0x1000), (0x1FFF, 0x2000)].map
        (fun x => containingWindow (carrying lane).port.windows 5 x.1 x.2) = [some 0, some 0, some 0, none, none] := by
  decide +kernel

/-- The host's request 1 for a check of a range. -/
def checkOf (a size : Word) : Env := wrote 0x110 ([1, 0, 0, 0, 0, 0, 0, 0] ++ le32 a ++ le32 size)

/-- The clauses of a window check: a size of 0, a range to the top, past the top, contained, and not. -/
theorem witness_WindowCheck :
    (checking.control.part = .running ∧ checking.conds.haltPending = none ∧ checking.time.windowDue = true ∧
      Memory.wf checking.mem = true ∧ (checkOf 0 0).berr = [] ∧
      byteAt ((checking.seen (checkOf 0 0)).area 0x0110 16) 0 ≠ checking.port.checkTaken) ∧
    [(after (.windowCheckPoll (checkOf 0 0)) checking).area 0x0113 2,
      (after (.windowCheckPoll (checkOf 0xFFFFFFFF 1)) checking).area 0x0113 2,
      (after (.windowCheckPoll (checkOf 0xFFFFFFFF 2)) checking).area 0x0113 2,
      (after (.windowCheckPoll (checkOf 0x1000 0x1000)) checking).area 0x0113 2,
      (after (.windowCheckPoll (checkOf 0x1000 0x1001)) checking).area 0x0113 2] =
      [[4, 0xFF], [0, 0xFF], [2, 0xFF], [1, 0], [0, 0xFF]] ∧
    ∀ k ∈ [0, 1],
      let t := after (.windowCheckPoll ⟨(checkOf 0x1000 0x1000).hostWrites, [none, none, some k]⟩) checking
      t.area 0x0113 2 = [1, 0] ∧ t.port.checkTaken = 0 ∧ t.area 0x0111 1 = [if k = 0 then 0 else 1] := by
  decide +kernel

/-- BERR on the write of the results, after none, one and both of its bytes. -/
theorem witness_WindowCheck_berr :
    ([0, 1, 2].map fun k =>
      let t := after (.windowCheckPoll ⟨(checkOf 0x1000 0x1001).hostWrites, [none, some k]⟩) checking
      (t.area 0x0111 1, t.area 0x0113 2, t.port.checkTaken, t.conds.flags)) =
    [([0], [0, 0], 0, 1), ([0], [0, 0], 0, 1), ([0], [0, 0xFF], 0, 1)] := by decide +kernel

/-- A visit whose read meets BERR, and visits to records in the states that no visit acts on. -/
theorem witness_VisitAdvancesSweep_kinds :
    let s := visiting (live.setNote 2 .waitLoad)
    ((after (.sweepVisit (berr 0)) s).noteSeen 2, (after (.sweepVisit (berr 0)) s).sweep.position) = (.waitLoad, 3) ∧
    ∀ st ∈ [(0 : Byte), 3, 4, 9],
      let t := after (.sweepVisit (wrote 0x460 [st])) s
      (itemRecordOf ((s.seen (wrote 0x460 [st])).area 0x460 48)).state = st ∧ s.shadowOf 2 = none ∧
      t.noteSeen 2 = .none ∧ t.area 0x460 1 = [st] ∧ t.conds = s.conds := by decide +kernel

theorem witness_VisitAdvancesSweep :
    let s := visiting live
    (s.control.part = .running ∧ s.conds.haltPending = none ∧ 0 < s.sweep.owed) ∧ live.sweep.owed = 0 ∧
    (visiting (halting .underrun)).conds.haltPending ≠ none ∧ (visiting State.reset).control.part ≠ .running := by
  decide +kernel

/-- Every outcome of an admission, the resource tests in states that lack each resource. -/
theorem witness_AdmissionChecksInOrder :
    let s := { carrying lane with clock := { State.reset.clock with origin := some .board, time := 100 } }
    let full := { s with sched := { s.sched with shadow := .replicate 64 (some shadow) } }
    let crowded := { s with sched := { s.sched with lanes := .replicate 96 (some lane) } }
    let heavy := s.setCommitted 0 58982
    [s.verdict { record with kind := 2 }, s.verdict { record with length := 0 }, s.verdict { record with length := 65 },
      s.verdict { record with targets := 0 }, s.verdict { record with period := 0 },
      s.verdict { record with notBefore := 300, expiry := 300 }, s.verdict { record with expiry := 100 },
      s.verdict { record with address := 0xFFFFFFF0 }, s.verdict { record with address := 0x1FE1 },
      s.verdict { record with period := 2 }, full.verdict record, crowded.verdict record, heavy.verdict record] =
    [.reject .badKind false, .reject .badLength false, .reject .badLength false, .reject .noStream false,
      .reject .badPeriod false, .reject .badTime false, .reject .tooLate false, .reject .wrap false,
      .reject .window false, .reject .overload false, .defer .waitShadow, .defer .waitLanes, .defer .waitLoad] ∧
    s.verdict { record with address := 0x1FE0, expiry := 101 } =
      .admitted .generic [{ stream := 0, period := 1250, countdown := 0, load := 210, clamped := false }] false := by
  decide +kernel

theorem witness_RejectDeferOrphan :
    (∀ s ∈ [visiting live, visiting (live.setCommitted 0 58982)], s.control.part = .running ∧
      s.conds.haltPending = none ∧ 0 < s.sweep.owed ∧ Memory.wf s.mem = true ∧ s.shadowOf s.sweep.position = none) ∧
    (let r := itemRecordOf (((visiting live).seen (wrote 0x460 (itemBytes 1 7 0 2 1 1000 0x1000 32))).area 0x460 48);
      itemOffset (visiting live).sweep.position = 0x460 ∧ r.state = 1 ∧
      (visiting live).verdict r = .reject .badKind false) ∧
    (let s := visiting (((carrying lane).setShadow 0 none).setCommitted 0 58982);
      let r := itemRecordOf ((s.seen (wrote 0x460 (itemBytes 1 7 0 6 1 1000 0x1000 32))).area 0x460 48);
      r.state = 1 ∧ s.shadowOf s.sweep.position = none ∧ s.verdict r = .defer .waitLoad ∧
      s.noteSeen s.sweep.position ≠ .waitLoad ∧
      (after (.sweepVisit (wrote 0x460 (itemBytes 1 7 0 6 1 1000 0x1000 32))) s).noteSeen 2 = .waitLoad) ∧
    (itemRecordOf (((visiting live).seen (wrote 0x460 [2])).area 0x460 48)).state = 2 := by decide +kernel

/-- What a visit leaves whose i-th transfer meets BERR: the COND flags with the write position, the note seen, and the
record's bytes 0, 28 and 30 with the kind of the log record. -/
def cutVisit (s : State) (bytes : List Byte) (i : Nat) : List Nat × Note × List Byte :=
  let t := after (.sweepVisit ⟨puts 0x460 bytes, List.replicate i none ++ [some 0]⟩) (visiting s)
  ([t.conds.flags.toNat, t.writePosition.toNat], t.noteSeen 2,
    t.area 0x460 1 ++ t.area 0x47C 1 ++ t.area 0x47E 1 ++ t.area Config.offLog 1)

/-- Every transfer of a rejection with a clamp, of a deferral and of an orphan, after its read, met by BERR. -/
theorem witness_RejectDeferOrphan_reject :
    [1, 2, 3, 4, 5].map (cutVisit live (itemBytes 1 7 0 6 1 36001 0x1000 32)) =
      [([0x41, 0], .none, [1, 0, 0, 0]), ([0x41, 0], .none, [1, 7, 0, 0]), ([0x41, 0], .none, [3, 7, 0, 0]),
        ([0x41, 0], .none, [3, 7, 0, 0]), ([0x41, 1], .none, [3, 7, 0, 2])] := by decide +kernel

theorem witness_RejectDeferOrphan_defer :
    let crowded := (((carrying lane).setShadow 0 none).setCommitted 0 58982).setNote 2 .waitShadow
    [1, 2, 3, 4].map (cutVisit crowded (itemBytes 1 7 0 6 1 1000 0x1000 32)) =
      [([1, 0], .waitShadow, [1, 0, 0, 0]), ([1, 0], .waitLoad, [1, 0, 3, 0]), ([1, 0], .waitLoad, [1, 0, 3, 0]),
        ([1, 1], .waitLoad, [1, 0, 3, 4])] := by decide +kernel

theorem witness_RejectDeferOrphan_orphan :
    [1, 2, 5].map (cutVisit live (itemBytes 2 7 0 6 1 1000 0x1000 32)) =
      [([1, 0], .none, [2, 0, 0, 0]), ([1, 0], .none, [2, 20, 0, 0]), ([1, 1], .none, [4, 20, 0, 3])] := by
  decide +kernel

/-- The conditions of a rejection with a clamp in a part that halts on PERIOD_CLAMP and whose log is full (R158). -/
theorem witness_RejectDeferOrphan_clamp :
    let s := visiting { live with conds := { live.conds with haltMask := Condition.periodClamp.bit } }
    let t := after (.sweepVisit ⟨puts 0x460 (itemBytes 1 7 0 6 1 36001 0x1000 32) ++ puts 0xF0 [1], []⟩) s
    t.conds.flags = 0x840 ∧ t.conds.haltPending = some {
      cause := .periodClamp, time := 0, cells := 0
      place := { stream := none, slot := 2, lane := 0xFF, address := 0x460 } } := by decide +kernel

/-- A RUNNING part with a window and no item. -/
def empty : State := visiting { live with port := (carrying lane).port }

theorem witness_AdmittedItemHasLanes :
    let env := wrote 0x460 (itemBytes 1 7 0 6 1 1000 0x1000 32)
    let r := itemRecordOf ((empty.seen env).area (itemOffset empty.sweep.position) 48)
    empty.LanesOk ∧ empty.control.part = .running ∧ empty.conds.haltPending = none ∧ 0 < empty.sweep.owed ∧
    env.berr = [] ∧ Memory.wf empty.mem = true ∧ empty.shadowOf empty.sweep.position = none ∧ r.state = 1 ∧
    empty.verdict r =
      .admitted .generic [{ stream := 0, period := 1250, countdown := 0, load := 210, clamped := false }] false := by
  refine ⟨⟨by decide +kernel, by decide +kernel, ?_, ?_⟩, by decide +kernel⟩
  · intro i j l k hi
    have := of_lanes (p := fun _ _ => false) (s := empty) (by decide +kernel) i l hi
    cases this
  · intro i l e hi
    have := of_lanes (p := fun _ _ => false) (s := empty) (by decide +kernel) i l hi
    cases this

/-- BERR on each transfer of an admission with a clamp, after its read: the COND flags, the item's slot, the lane, the
write position, and the bytes 0 and 32 of the record. -/
theorem witness_AdmittedItemHasLanes_berr :
    ([1, 2, 3, 4, 5].map fun i =>
      let t := after (.sweepVisit ⟨puts 0x460 (itemBytes 1 7 0 6 1 36001 0x1000 32),
        List.replicate i none ++ [some 0]⟩) empty
      (t.conds.flags, (t.shadowAt 0).map Shadow.slot, (t.lane 0).map Lane.fresh, t.writePosition,
        t.area 0x460 1 ++ t.area 0x480 1)) =
    [(0x41, some 2, some true, 0, [1, 0]), (0x41, some 2, some true, 0, [1, 1]),
      (0x41, some 2, some true, 0, [2, 1]), (0x41, some 2, some true, 0, [2, 1]),
      (0x41, some 2, some true, 1, [2, 1])] := by decide +kernel

theorem witness_WithdrawRetiresIdleItem :
    let s := visiting (carrying lane)
    let r := itemRecordOf ((s.seen (wrote 0x460 (itemBytes 2 6 1 6 1 1000 0x1000 32))).area 0x460 48)
    (s.control.part = .running ∧ s.conds.haltPending = none ∧ 0 < s.sweep.owed ∧ Memory.wf s.mem = true ∧
      s.shadowOf s.sweep.position = some 0 ∧ s.shadowAt 0 = some shadow ∧ shadow.slot = s.sweep.position ∧ r.state = 2 ∧
      r.request ≠ shadow.taken ∧ r.code = 1 ∧ shadow.closing = none ∧ s.hasLane (.item 0) = true) ∧
    ∀ i l, s.lane i = some l → l.source = .item 0 → l.repetition = .idle ∧ l.closing = none := by
  refine ⟨by decide +kernel, fun i l hl _ => ?_⟩
  have := of_lanes (p := fun _ l => decide (l.repetition = .idle ∧ l.closing = none)) (by decide +kernel) i l hl
  exact of_decide_eq_true this

/-- Visits to the item held: its lane afterwards, the item's request outcome, the record's state, lane mask and answer.
A write-back; WITHDRAW with the lane in a repetition; an expiry just not reached, reached, and reached with the lane in
a repetition; a record taken back; and, with the item closing, a write-back, a request and a record taken back. -/
theorem witness_WithdrawRetiresIdleItem_visits :
    let busy := { lane with repetition := .parts 2 }
    let ending := { busy with closing := some .withdrawn }
    let visited := fun (l : Lane) (sh : Shadow) (time : Word) (st req code : Nat) =>
      let s := { (carrying l).setShadow 0 (some sh) with
        clock := { live.clock with origin := some .board, time := time } }
      let t := after (.sweepVisit (wrote 0x460 (itemBytes st req code 6 1 1000 0x1000 32))) (visiting s)
      ((t.lane 0).map Lane.closing, (t.shadowAt 0).map fun x => (x.outcome.code, x.taken), t.area 0x460 1,
        t.area 0x480 1, t.area 0x47D 3)
    let limited := { shadow with expiry := 9 }
    let closed := { shadow with closing := some .withdrawn }
    [visited lane shadow 0 2 5 1, visited busy shadow 0 2 6 1, visited lane limited 8 2 5 0,
      visited lane limited 9 2 5 0, visited busy limited 9 2 5 0, visited busy shadow 0 0 5 0,
      visited ending closed 0 2 5 0, visited ending closed 0 2 6 2, visited ending closed 0 1 5 0] =
    [(some none, some (0, 5), [2], [1], [0, 0, 0]), (some (some .withdrawn), some (1, 6), [2], [1], [6, 0, 1]),
      (some none, some (0, 5), [2], [1], [0, 0, 0]), (none, none, [4], [0], [5, 0, 0]),
      (some (some .expired), some (0, 5), [2], [1], [0, 0, 0]),
      (some (some .disowned), some (0, 5), [0], [0], [0, 0, 0]),
      (some (some .withdrawn), some (0, 5), [2], [1], [0, 0, 0]),
      (some (some .withdrawn), some (3, 6), [2], [1], [6, 0, 3]),
      (some (some .withdrawn), some (0, 5), [1], [0], [0, 0, 0])] := by decide +kernel

/-- BERR on each transfer, after its read, of a visit that takes a WITHDRAW, of an idle lane and of one in a repetition:
whether the item is held, the COND flags, the write position, and the bytes 0, 28, 29, 31 and 32 of the record. -/
theorem witness_WithdrawRetiresIdleItem_berr :
    let visited := fun (l : Lane) (i : Nat) =>
      let t := after (.sweepVisit ⟨puts 0x460 (itemBytes 2 6 1 6 1 1000 0x1000 32), List.replicate i none ++ [some 0]⟩)
        (visiting (carrying l))
      ((t.shadowAt 0).isSome, t.conds.flags, t.writePosition,
        t.area 0x460 1 ++ t.area 0x47C 2 ++ t.area 0x47F 2)
    ([1, 3, 4, 5].map (visited lane) =
      [(false, 1, 1, [4, 16, 6, 1, 0]), (false, 1, 1, [4, 16, 6, 1, 0]), (false, 1, 1, [2, 0, 6, 1, 0]),
        (false, 1, 1, [2, 16, 6, 1, 0])]) ∧
    [1, 2, 3].map (visited { lane with repetition := .parts 2 }) =
      [(true, 1, 0, [2, 0, 0, 0, 0]), (true, 1, 0, [2, 0, 6, 0, 0]), (true, 1, 0, [2, 0, 6, 1, 0])] := by
  decide +kernel

/-- BERR in the other visits to an item held: a write-back; an expiry, at the write-back and at each retirement write; a
record taken back, at each retirement write; and, with the item closing, a write-back and a request. The same fields. -/
theorem witness_WithdrawRetiresIdleItem_berr_other :
    let ending := { lane with repetition := .parts 2, closing := some .withdrawn }
    let visited := fun (l : Lane) (sh : Shadow) (time : Word) (st req i : Nat) =>
      let s := { (carrying l).setShadow 0 (some sh) with
        clock := { live.clock with origin := some .board, time := time } }
      let t := after (.sweepVisit ⟨puts 0x460 (itemBytes st req 2 6 1 1000 0x1000 32), List.replicate i none ++ [some 0]⟩)
        (visiting s)
      ((t.shadowAt 0).isSome, t.conds.flags, t.writePosition, t.area 0x460 1 ++ t.area 0x47C 2 ++ t.area 0x47F 2)
    let limited := { shadow with expiry := 9 }
    let closed := { shadow with closing := some .withdrawn }
    [visited lane limited 8 2 5 1, visited lane limited 9 2 5 1, visited lane limited 9 2 5 2, visited lane limited 9 2 5 3,
      visited lane shadow 0 9 5 1, visited lane shadow 0 9 5 2, visited ending closed 0 2 5 1, visited ending closed 0 2 6 1,
      visited ending closed 0 2 6 3] =
    [(true, 1, 0, [2, 0, 0, 0, 0]), (false, 1, 1, [4, 17, 5, 0, 0]), (false, 1, 1, [2, 0, 0, 0, 0]),
      (false, 1, 1, [2, 17, 5, 0, 0]), (false, 1, 1, [9, 0, 0, 0, 0]), (false, 1, 1, [9, 19, 5, 0, 0]),
      (true, 1, 0, [2, 0, 0, 0, 0]), (true, 1, 0, [2, 0, 0, 0, 0]), (true, 1, 0, [2, 0, 6, 3, 0])] := by
  decide +kernel

theorem carrying_LanesOk : (carrying lane).LanesOk := by
  have zero := of_lanes (p := fun i l => decide (i = 0 ∧ l = lane)) (s := carrying lane) (by decide +kernel)
  refine ⟨by decide +kernel, by decide +kernel, ?_, ?_⟩
  · intro i j l k hi hj _ _
    rw [(of_decide_eq_true (zero i l hi)).1, (of_decide_eq_true (zero j k hj)).1]
  · intro i l e hi he
    have : l = lane := (of_decide_eq_true (zero i l hi)).2
    subst this
    cases he
    decide +kernel

/-- The clauses of an AMEND: ignored twice, refused, done, and done with a clamp. -/
theorem witness_AmendAllOrNothing :
    (carrying lane).LanesOk ∧ (carrying lane).shadowAt 0 = some shadow ∧
    [(0, 0), (1000, 4), (3, 1), (36000, 3), (36001, 0)].map (fun x =>
      ((carrying lane).amendItem 0 2 { record with amendPeriod := x.1, amendClass := x.2 }).1) =
      [.ignored, .ignored, .refusedLoad, .done, .done] := ⟨carrying_LanesOk, by decide +kernel⟩

/-- A visit takes an AMEND (done, refused, ignored) and another code, and an AMEND past the expiry time is done and the
item goes. -/
theorem witness_AmendAllOrNothing_visits :
    let visited := fun (sh : Shadow) (code : Nat) (period : Word) =>
      let s := { (carrying lane).setShadow 0 (some sh) with
        clock := { live.clock with origin := some .board, time := 9 } }
      let host := puts 0x460 (itemBytes 2 6 code 6 1 1000 0x1000 32) ++ puts 0x471 (3 :: le32 period)
      let t := after (.sweepVisit ⟨host, []⟩) (visiting s)
      ((t.lane 0).map fun l => (l.cls, l.period), t.area 0x47D 3)
    [visited shadow 2 400, visited shadow 2 3, visited shadow 2 0, visited shadow 0 400,
      visited { shadow with expiry := 9 } 2 400] =
    [(some (3, 500), [6, 0, 1]), (some (1, 1250), [6, 0, 2]), (some (1, 1250), [6, 0, 3]), (some (1, 1250), [6, 0, 3]),
      (none, [6, 0, 1])] := by decide +kernel

/-- The clamps of an AMEND: period 36000 and 36001, done and refused, and a conversion to 0 cells, refused. -/
theorem witness_AmendAllOrNothing_clamps :
    let heavy := (carrying lane).setCommitted 0 60000
    let slow := (carrying lane).setUnit 0 { liveUnit with config := { config with rate := 300 } }
    [((carrying lane), 36000), ((carrying lane), 36001), (heavy, 36000), (heavy, 36001), (slow, 2), (slow, 1)].map
        (fun x => (x.1.amendItem 0 2 { record with amendPeriod := x.2 }).2.conds.flags) =
      [0, 0x40, 0, 0x40, 0, 0x40] := by decide +kernel

/-- BERR on each write of a visit that takes an AMEND: the lane's P, the item's taken number and the bytes 29 and 31 of
the record; and the same past the expiry time, where only the last one is checked. -/
theorem witness_AmendAllOrNothing_berr :
    let visited := fun (expiry : Word) (i : Nat) =>
      let s := { (carrying lane).setShadow 0 (some { shadow with expiry := expiry }) with
        clock := { live.clock with origin := some .board, time := 9 } }
      let host := puts 0x460 (itemBytes 2 6 2 6 1 1000 0x1000 32) ++ puts 0x472 (le32 400)
      let t := after (.sweepVisit ⟨host, List.replicate i none ++ [some 0]⟩) (visiting s)
      ((t.lane 0).map Lane.period, (t.shadowAt 0).map Shadow.taken, t.area 0x47D 1 ++ t.area 0x47F 1)
    [visited 0 1, visited 0 2, visited 0 3, visited 9 1, visited 9 2, visited 9 3] =
    [(some 500, some 6, [0, 0]), (some 500, some 6, [6, 0]), (some 500, some 6, [6, 1]), (some 500, some 6, [0, 0]),
      (some 500, some 6, [6, 0]), (none, none, [6, 1])] := by decide +kernel

/-- Periods at the edges of the clamp: 0, 1, 65 535 and 65 536 cells. -/
theorem witness_PeriodsAndLoads :
    [(1, 479), (1, 480), (65535, 960), (65536, 960)].map (fun x => ((x.1 * x.2 + 480) / 960, periodCells x.1 x.2)) =
      [(0, 1), (1, 1), (65535, 65535), (65536, 65535)] ∧
    [laneLoad 1 65535, laneLoad 8 1] = [2, 524288] := by decide +kernel

/-- The payloads of a FILL, an ALERT at level 3 and at level 0, and a CLOCK at 86 461 seconds. -/
theorem test_cell_payloads :
    let s := { announced (announcement 4) with
      clock := { live.clock with origin := some .feed, time := 86461, offset := -2 } }
    (s.fillCell 1).payload.toList = [0, 0, 9, 9, 9, 9, 1, 2] ∧ (s.fillCell 0).level = 3 ∧
    (s.alertCell 0).payload.toList = [7, 2, 3, 0, 4, 0, 0, 0] ∧
    (s.alertCell 1).payload.toList = [0, 0, 0, 0, 0, 1, 0, 0] ∧
    (s.clockCell 0).payload.toList = [0, 1, 0, 0, 61, 0xFE, 2, 0] := by decide +kernel

/-- R12's map at its edges, with and without a correction entry in use. -/
theorem witness_TextConversion :
    let cs := (State.reset.corrections.set 2 ⟨0x41, 0xDF⟩).set 5 ⟨0x41, 0x20⟩
    [0x1F, 0x20, 0x41, 0x7E, 0x7F, 0x9F, 0xA0, 0xFF].map (airCode cs) =
      [none, some 0x20, some 0xDF, some 0x7E, none, none, some 0x80, some 0xDF] ∧
    airCode (cs.set 2 ⟨0x41, 0xE0⟩) 0x41 = some 0x20 := by decide +kernel

/-- Lengths at the edges of each kind, with the cells they take. -/
theorem witness_RepetitionContent :
    [(ItemKind.name, 1), (.name, 16), (.name, 17), (.name, 64), (.notice, 6), (.notice, 46), (.sibling, 8),
      (.generic, 1),
      (.generic, 64)].map (fun x => (lengthOk x.1 x.2,
        (itemContent State.reset.corrections x.1 x.2 (List.replicate (fetchLength x.1 x.2) 0x41)).parts.length,
        (itemContent State.reset.corrections x.1 x.2 (List.replicate (fetchLength x.1 x.2) 0x41)).truncated)) =
    [(true, 2, false), (true, 2, false), (true, 2, true), (true, 2, true), (true, 1, false), (true, 6, false),
      (true, 1, false), (true, 1, false), (true, 8, false)] := by decide +kernel

theorem witness_SlotOpens :
    let full := withUnit { liveUnit with buffer := .full cell } live
    let held := { live with control := (inPart .held).control }
    (∀ s ∈ [live, full, held], (s.unit 0).output = .live ∧ (s.control.part = .running ∨ s.control.part = .held) ∧
      (s.unit 0).shifterReady = true) ∧ (full.unit 0).buffer = .full cell ∧ (live.unit 0).buffer = .forming := by
  decide +kernel

/-- A slot opening takes the freshness of the stream's lanes while RUNNING and HELD, and the countdown while RUNNING. -/
theorem witness_SlotOpens_fresh :
    ([PartState.running, .held].map fun p =>
      let s := { carrying { lane with fresh := true, countdown := 5 } with control := (inPart p).control }
      ((after (.slotOpen 0) s).lane 0, ((after (.slotOpen 1) s).lane 0).map Lane.fresh)) =
    [(some { lane with countdown := 4 }, some true), (some { lane with countdown := 5 }, some true)] := by
  decide +kernel

/-- R37 and section 4.9.1: a decision that waits as a lane of P = 10 is created passes over it; the next slot lowers its
countdown from 0 to -1, and it comes out of its first selection with 9. -/
theorem test_new_lane_waits_for_slot :
    let decided := after (.slotDecision 0 Env.quiet) (carrying { lane with period := 10, fresh := true })
    ((decided.lane 0).map Lane.countdown, (decided.unit 0).buffer) = (some 0, .full (live.fillCell 0)) ∧
    ((after (.slotDecision 0 Env.quiet) (after (.slotOpen 0) decided)).lane 0).map Lane.countdown = some 9 := by
  decide +kernel

/-- The cell that a stream which is OFF has finished sending. -/
theorem witness_BitsShiftUntilOff_left :
    let s := (inPart .stopped).setUnit 0 { sending 96 with output := .off }
    (s.unit 0).output = .off ∧ (s.unit 0).shifterReady = true ∧
    ((after (.streamOff 0) s).unit 0).shifter = none := by decide +kernel

/-- BIT_TIME on the first and on the last bit; STREAM_OFF when STOPPING, with a cell unfinished, and while RUNNING. -/
theorem witness_BitsShiftUntilOff :
    (∀ k ∈ [0, 94, 95], ((withUnit (sending k) live).unit 0).shifter.map Shifter.sent = some k) ∧
    ((withUnit (sending 95) live).unit 0).shifterReady = false ∧ (live.unit 0).shifterReady = true ∧
    ({ live with control := (inPart .stopping).control } : State).control.part = .stopping ∧
    (live.unit 0).output = .live ∧ live.control.part ≠ .stopping := by decide +kernel

/-- One state for each case of a decision. -/
theorem witness_DecisionCases :
    let owedBy := fun u => withUnit u live
    let burst := owedBy { liveUnit with burst := 1 }
    let waiting := withUnit { liveUnit with interval := 8 } (announced (announcement 4))
    let staging := owedBy { liveUnit with staging := [staged] }
    let clock := { live with clock := { live.clock with origin := some .feed, time := 60 } }
    let held := fun s : State => { s with control := (inPart .held).control }
    (∀ s ∈ [burst, waiting, staging, clock, live], (s.unit 0).output = .live ∧ (s.unit 0).asked = true ∧
      s.control.part = .running) ∧
    0 < (burst.unit 0).burst ∧ (0 < waiting.level 0 ∧ (waiting.unit 0).config.interval ≤ (waiting.unit 0).interval) ∧
    (staging.unit 0).staging = [staged] ∧
    (clock.clock.origin ≠ none ∧ (clock.unit 0).lastMinute ≠ some (clock.stationTime.toNat / 60)) ∧
    (held staging).control.part = .held ∧ ((held burst).unit 0).staging = [] ∧ (∀ i, live.lane i = none) ∧
    live.level 0 = 0 ∧ (live.unit 0).burst = 0 := by decide +kernel

/-- A staged part whose lane has k parts left. -/
def forming (k : Nat) (c : Option Closing) : State :=
  withUnit { liveUnit with staging := [staged] } (carrying { lane with repetition := .parts k, closing := c })

/-- A staged part with parts left after it, the last one, and the last one of a closing lane, whose item goes. -/
theorem witness_DecisionCases_lane :
    (∀ x ∈ [(2, none), (1, none), (1, some Closing.countDone)],
      let s := forming x.1 x.2
      (s.unit 0).output = .live ∧ (s.unit 0).asked = true ∧ s.control.part = .running ∧ (s.unit 0).burst = 0 ∧
      s.level 0 = 0 ∧ (s.unit 0).staging = [staged] ∧ s.shadowAt 0 = some shadow ∧ Memory.wf s.mem = true ∧
      s.lane 0 = some { lane with repetition := .parts x.1, closing := x.2 } ∧
      ∀ i, i ≠ 0 → s.lane i = none) ∧
    (after (.slotDecision 0 Env.quiet) (forming 1 (some .countDone))).shadowAt 0 = none ∧
    (after (.slotDecision 0 Env.quiet) (forming 1 none)).lane 0 = some lane := by decide +kernel

theorem witness_SelectionOrder :
    (carrying lane).selectLane 0 = some (0, lane) ∧ (carrying { lane with countdown := 1 }).selectLane 0 = none ∧
    (carrying lane).lane 0 = some lane ∧ (carrying lane).eligible 0 lane = true ∧
    (carrying { lane with fresh := true }).selectLane 0 = none ∧
    (carrying lane).eligible 0 { lane with fresh := true } = true := by decide +kernel

/-- Lanes of equal class and countdown: an item with a notice, two items, two notices; the later lane is selected. -/
theorem witness_SelectionOrder_ties :
    let pair := fun a b : Source =>
      (((carrying { lane with source := a }).setLane 1 (some { lane with source := b })).setShadow 1
        (some { shadow with slot := 1 })).selectLane 0
    [pair (.notice 0) (.item 0), pair (.item 0) (.item 1), pair (.notice 3) (.notice 1)].map (Option.map Prod.fst) =
      [some 1, some 1, some 1] := by decide +kernel

theorem witness_SelectionStartsFetch :
    ∀ k ∈ [(0 : Int), -1251],
      let l := { lane with countdown := k }
      let s := carrying l
      (s.unit 0).output = .live ∧ (s.unit 0).asked = true ∧ s.control.part = .running ∧ (s.unit 0).burst = 0 ∧
      s.level 0 = 0 ∧ (s.unit 0).staging = [] ∧ s.clock.origin = none ∧ s.selectLane 0 = some (0, l) ∧
      l.source = .item 0 ∧ s.shadowAt 0 = some shadow ∧ shadow.feedName = false ∧
      containingWindow s.port.windows shadow.desk shadow.address.toNat (shadow.address.toNat + shadow.length - 1) ≠
        none := by decide +kernel

/-- The same without a window, with FETCH_WINDOW to halt and not to halt; a FEED_NAME item; and a notice's lane. -/
theorem witness_SelectionStartsFetch_other :
    let fault := fun m : BitVec 13 =>
      { carrying lane with port := MemoryPort.reset, conds := { live.conds with haltMask := m } }
    let named := (carrying lane).setShadow 0 (some { shadow with kind := .name, m := 2, feedName := true, limit := 1 })
    let told := (carrying { lane with source := .notice 0 }).setNotice 0 (.held (noticeOf noticeBody))
    (∀ s ∈ [fault 0, fault 4, named], s.selectLane 0 = some (0, lane)) ∧
    (told.selectLane 0).map Prod.fst = some 0 ∧
    (containingWindow MemoryPort.reset.windows shadow.desk shadow.address.toNat
      (shadow.address.toNat + shadow.length - 1)) = none ∧
    Condition.fetchWindow.inMask 0 = false ∧ Condition.fetchWindow.inMask 4 = true ∧
    ((after (.slotDecision 0 Env.quiet) named).lane 0).map Lane.closing = some (some .countDone) := by decide +kernel

/-- The item's fetch in progress. -/
def fetch : Fetch := { lane := 0, countdown := 0, air := 0, slips := 0 }

/-- A part with the item's fetch in progress. -/
def fetching : State :=
  withUnit { liveUnit with asked := false, fetch := some fetch } (carrying { lane with repetition := .fetching })

theorem witness_FetchEndCompletesStart :
    (fetching.control.part = .running ∧ (fetching.unit 0).fetch = some fetch ∧
      fetching.lane fetch.lane = some { lane with repetition := .fetching } ∧ lane.source = .item 0 ∧
      fetching.shadowAt 0 = some shadow ∧ Env.quiet.berr = [] ∧ shadow.limit = min (lane.air + 1) 0xFFFFFFFF) ∧
    ∃ p q ps, (itemContent fetching.corrections shadow.kind shadow.length
      (memReadRun (fetching.seen Env.quiet).mem shadow.address (fetchLength shadow.kind shadow.length))).parts =
        p :: q :: ps := ⟨by decide +kernel, _, _, _, rfl⟩

/-- A repetition of one part: the item goes with its last lane at the repeat limit, and stays without one. -/
theorem witness_FetchEndCompletesStart_one :
    let single := fun limit : Nat => fetching.setShadow 0 (some { shadow with length := 8, m := 1, limit := limit })
    (∀ k ∈ [0, 1], ((single k).unit 0).fetch = some fetch ∧
      (itemContent (single k).corrections .generic 8
        (memReadRun ((single k).seen Env.quiet).mem 0x1000 8)).parts.length = 1) ∧
    (after (.fetchEnd 0 Env.quiet) (single 1)).shadowAt 0 = none ∧
    (after (.fetchEnd 0 Env.quiet) (single 1)).lane 0 = none ∧
    (after (.fetchEnd 0 Env.quiet) (single 0)).lane 0 = some { lane with air := 1 } := by decide +kernel

theorem witness_FetchBusErrorSkipsOrRestores :
    (fetching.control.part = .running ∧ fetching.conds.haltPending = none ∧ (fetching.unit 0).fetch = some fetch ∧
      fetching.lane fetch.lane = some { lane with repetition := .fetching } ∧ lane.closing = none ∧
      fetching.shadowAt 0 = some shadow ∧ (berr 4).berr = [some 4]) ∧
    Condition.fetchBus.inMask fetching.conds.haltMask = false ∧ Condition.fetchBus.inMask 0x2 = true := by
  decide +kernel

/-- The same in a part that is HELD, with another halt pending, and with the lane closing, where the item goes. -/
theorem witness_FetchBusErrorSkipsOrRestores_other :
    let failed := fun (s : State) =>
      let t := after (.fetchEnd 0 (berr 4)) { s with conds := { s.conds with haltMask := Condition.fetchBus.bit } }
      ((t.lane 0).map Lane.countdown, (t.shadowAt 0).map Shadow.slipTotal, t.conds.haltPending.map Capture.cause,
        t.area 0x460 1)
    let late := fun c =>
      withUnit (fetching.unit 0) (carrying { lane with countdown := 7, repetition := .fetching, closing := c })
    let pending := { late none with conds := (halting .underrun).conds }
    [failed (late none), failed { late none with control := (inPart .held).control }, failed pending,
      failed { late (some .withdrawn) with control := (inPart .held).control }] =
    [(some 0, some 0, some .fetchBus, [0]), (some 7, some 1, none, [0]), (some 7, some 1, some .underrun, [0]),
      (none, none, none, [4])] := by decide +kernel

theorem annStream_Ok (waiting : List Nat) (h : waiting ∈ [[], [3, 2, 2], [3, 3, 2, 1], [3, 3, 3, 3]]) :
    (annStream waiting).Ok := by
  simp only [List.mem_cons, List.not_mem_nil, or_false] at h
  rcases h with rfl | rfl | rfl | rfl <;> exact ⟨by decide, by decide, by decide, by decide, by decide⟩

/-- Every clause of an offer to a stream at level 3, and the stream at level 0. -/
theorem witness_OfferByLevel :
    AnnStream.reset.Ok ∧ (annStream []).Ok ∧ (annStream [3, 2, 2]).Ok ∧ (annStream [3, 3, 2, 1]).Ok ∧
    (annStream [3, 3, 3, 3]).Ok ∧
    [(AnnStream.reset, 1), (annStream [], 4), (annStream [3, 2, 2], 3), (annStream [3, 3, 2, 1], 2),
      (annStream [3, 3, 3, 3], 3)].map (fun x => (x.1.offer 9 x.2).1) =
      [.current none, .current (some ⟨0, 3, 0⟩), .waiting none, .waiting (some ⟨2, 1, 2⟩), .refused] :=
  ⟨⟨by decide, by decide, by decide, by decide, by decide⟩, annStream_Ok _ (by decide), annStream_Ok _ (by decide),
    annStream_Ok _ (by decide), annStream_Ok _ (by decide), by decide +kernel⟩

/-- The four shapes of R102's table, the last with equal and with unequal levels. -/
theorem witness_ResumptionTable :
    let stack := fun k : Nat => ({ entry := 1, level := k, arrival := 0 } : Position)
    let a := fun ss ws : List Nat => (AnnStream.resume
      { current := none, suspended := ss.map stack, waiting := ws.map stack, arrivals := 0 }).1
    [a [] [], a [] [2], a [2] [], a [2] [3], a [2] [2], a [2] [1]] =
      [none, some .promote, some .resume, some .promote, some .resume, some .resume] := by decide

theorem witness_BoardBeginOnIdleAndBusyStreams :
    ∀ q ∈ [({ request := 1, op := 1, number := 7, level := 1, kind := 0, mask := 1, duration := 0 } : AnnRequest),
        { request := 1, op := 1, number := 7, level := 8, kind := 0, mask := 0xF, duration := 3601 }],
      live.control.part = .running ∧ q.number ≠ 0 ∧ q.level ≠ 0 ∧ q.mask &&& live.enabledMask ≠ 0 ∧
      live.findAnnouncement .board q.number = none ∧ live.freeAnnouncement ≠ none ∧
      ∀ n : StreamId, (live.positions n).current = none ∧ (live.positions n).arrivals < 0xFFFFFFFF := by decide +kernel

theorem witness_PollTakesEveryRequest :
    let s := polling
    (s.control.part = .running ∧ (s.conds.haltMask = 0 ∧ s.conds.haltPending = none) ∧ s.time.annDue = true ∧
      Memory.wf s.mem = true ∧ ∀ r : RequestId, s.ann.owed[r] = none) ∧
    byteAt ((s.seen (wrote 0x140 [1])).area 0x0140 128) 0 ≠ s.ann.taken[(0 : RequestId)] ∧
    byteAt ((s.seen (wrote 0x140 [1])).area 0x0140 128) (16 * 7) = s.ann.taken[(7 : RequestId)] := by decide +kernel

/-- Every op of one new request, by the byte that answers it: BEGIN with level 0, to be renewed, with the table full and
offered; END of one not there and of one there; END_ALL; and op 9. -/
theorem witness_PollTakesEveryRequest_ops :
    let s := { announced (announcement 4) with time := polling.time }
    let full := { s with ann := { s.ann with table := .replicate 16 (some { announcement 4 with number := 9 }) } }
    let answer := fun (s : State) (op number level : Byte) =>
      (after (.announcementPoll (wrote 0x140 [1, 0, op, 0, number, level, 0, 1])) s).area 0x0143 1
    [answer s 1 8 0, answer s 1 7 3, answer full 1 8 3, answer s 1 8 4, answer s 1 8 3, answer s 2 8 0, answer s 2 7 0,
      answer s 3 0 0, answer s 9 7 3] = [[8], [3], [6], [1], [2], [5], [4], [4], [8]] := by decide +kernel

/-- Answers owed, and the answer to a first new request, to one and to the other record, written and met by BERR at the
outcome and at the number. -/
theorem witness_PollTakesEveryRequest_owed :
    let owes : State := { polling with ann := { polling.ann with
      owed := .replicate 8 (some { outcome := .queued, number := 9 }) } }
    let answered := fun (s : State) (plan : List (Option Nat)) =>
      let t := after (.announcementPoll ⟨puts 0x140 [1, 0, 9] ++ puts 0x1B0 [1, 0, 9], plan⟩) s
      (t.area 0x141 3, t.ann.taken[(0 : RequestId)], t.ann.owed[(0 : RequestId)].map AnnOwed.number,
        t.ann.taken[(7 : RequestId)])
    [answered owes [], answered owes [none, some 0], answered owes [none, none, some 0], answered polling [],
      answered polling [none, some 0], answered polling [none, none, some 0]] =
    [([9, 9, 2], 0, none, 0), ([0, 9, 0], 0, some 9, 0), ([0, 9, 2], 0, some 9, 0), ([1, 9, 8], 1, none, 1),
      ([0, 9, 0], 1, some 1, 0), ([0, 9, 8], 1, some 1, 0)] := by decide +kernel

/-- BERR on each transfer of the first record of a BEGIN refused as BAD, of one taken, of an END and of END_ALL: the
bytes of the answer stay, the answer is owed, the action stands and a new request behind it waits. -/
theorem witness_PollTakesEveryRequest_append :
    let s := { announced (announcement 4) with time := polling.time }
    let polled := fun (op number level : Byte) (i : Nat) =>
      let t := after (.announcementPoll ⟨puts 0x140 [1, 0, op, 0, number, level, 0, 1] ++ puts 0x1B0 [1, 0, 9],
        List.replicate i none ++ [some 0]⟩) s
      (t.area 0x0141 3 == [0, op, 0] && t.ann.taken[(0 : RequestId)] == 1 && t.ann.taken[(7 : RequestId)] == 0,
        t.ann.owed[(0 : RequestId)].map AnnOwed.outcome, s.level 0, t.level 0)
    ∀ i ∈ [1, 2, 3], [polled 1 8 0 i, polled 1 8 5 i, polled 2 7 0 i, polled 3 0 0 i] =
      [(true, some .bad, 3, 3), (true, some .begun, 3, 5), (true, some .ended, 3, 0),
        (true, some .ended, 3, 0)] := by decide +kernel

/-- The switch output at its threshold of 3 and one below. -/
theorem witness_SwitchOutput :
    (announced (announcement 4)).answ 0 = true ∧ (announced { announcement 4 with level := 2 }).answ 0 = false ∧
    live.control.part = .running ∧ Instr.rstN.isReset = true := by decide +kernel

theorem witness_CharacterErrorsAndAddresses :
    let s := hearing .live [1]
    s.receiver.active = true ∧ live.receiver.active = false ∧ oddOnes 1 false false = true ∧
    oddOnes 1 true false = false ∧ parityWrong s.general.parity 5 true false = false ∧ s.receiver.state = .collect ∧
    s.receiver.assembly ≠ [] ∧ (hearing .live []).receiver.assembly = [] ∧
    (after (.feedCharacter 5 false true true Env.quiet) s).receiver.state = .collect ∧
    (after (.feedCharacter 6 false true true Env.quiet) s).receiver.state = .skip := by decide +kernel

/-- An ALERT_END message with its check byte, heard by a LIVE and by a LOST feed. -/
theorem witness_MessageCompletes :
    ∀ f ∈ [FeedState.live, .lost],
      let s := hearing f [3, 1, 9]
      let bs := s.receiver.assembly ++ [0xF3]
      s.receiver.active = true ∧ parityWrong s.general.parity 0xF3 false false = false ∧ s.receiver.state = .collect ∧
      3 ≤ bs.length ∧ bs.length = (byteAt bs 1).toNat + 3 ∧ byteSum bs = 0 ∧
      lengthRight (byteAt bs 0) (byteAt bs 1).toNat = true ∧ s.receiver.ready = none := by decide +kernel

/-- A data character in HUNT and in COLLECT; a length of 40 and of 41; and messages with a bad sum, type and length. -/
theorem witness_MessageCompletes_discards :
    let heard := fun (r : ReceiverState) (bs : List Byte) (data : Byte) =>
      let s := hearing .live bs
      let t := after (.feedCharacter data false false true Env.quiet)
        { s with receiver := { s.receiver with state := r } }
      (t.receiver.state, t.receiver.assembly, t.conds.flags.getLsbD (Condition.feedMsg.code - 1),
        t.receiver.ready.isSome)
    [heard .hunt [] 3, heard .collect [3] 40, heard .collect [3] 41, heard .collect [3, 1, 9] 0xF4,
      heard .collect [9, 1, 9] 0xED, heard .collect [3, 2, 9, 0] 0xF2, heard .collect [3, 1, 9] 0xF3] =
    [(.hunt, [], false, false), (.collect, [3, 40], false, false), (.hunt, [], true, false), (.hunt, [], true, false),
      (.hunt, [], true, false), (.hunt, [], true, false), (.hunt, [], false, true)] := by decide +kernel

/-- A LIVE feed at its silence limit: the completion loses a feed announcement and finds the feed LIVE. -/
theorem witness_MessageCompletes_due :
    let s := { announced { announcement 4 with origin := .feed } with
      receiver := { (hearing .live [3, 1, 9]).receiver with silence := 10 }
      general := { live.general with silenceLimit := 10 } }
    let t := after (.feedCharacter 0xF3 false false true Env.quiet) s
    s.control.part = .running ∧ s.receiver.feed = .live ∧ s.general.silenceLimit ≤ s.receiver.silence ∧
    t.announcement 0 = none ∧ t.receiver.feed = .live ∧ t.receiver.silence = 0 ∧ t.writePosition = 3 := by
  decide +kernel

theorem witness_FeedLossEndsFeedAnnouncements :
    let s := { announced (announcement 4) with
      receiver := { Receiver.reset with feed := .live, silence := 10 }
      general := { GeneralConfig.reset with silenceLimit := 10 } }
    s.control.part = .running ∧ s.receiver.feed = .live ∧ s.general.silenceLimit ≤ s.receiver.silence ∧
    (s.positions 0).current = some { entry := 0, level := 3, arrival := 0 } ∧
    s.announcement 0 = some (announcement 4) ∧ (announcement 4).origin = .board := by decide +kernel

/-- NAME_SET, and KEEPALIVE with the clock source LOCAL and FEED, its offset at and past the limits. -/
theorem witness_NameSetAndKeepalive :
    (toldIn live 1 (List.replicate 16 0x41)).receiver.ready =
      some { type := 1, body := List.replicate 16 0x41, matched := 1 } ∧
    (toldIn live 5 [0, 0, 0, 9, 24, 0]).clock.source = .localOnly ∧
    [(24 : Byte), 25, 0xE8, 0xE7].map (fun k =>
      (after (.feedMessageAction Env.quiet) (toldIn (clocked .feed .live) 5 [0, 0, 0, 9, k, 0])).clock.offset) =
      [24, 24, -24, -24] ∧
    live.control.part = .running ∧ live.conds.haltPending = none := by decide +kernel

theorem witness_NewNoticeHeld :
    let s := toldIn live 4 noticeBody
    (s.control.part = .running ∧ s.conds.haltPending = none ∧
      s.receiver.ready = some { type := 4, body := noticeBody, matched := 1 } ∧ 11 ≤ noticeBody.length ∧
      (byteAt noticeBody 2).getLsbD 7 = false ∧ be16At noticeBody 3 ≠ 0 ∧ s.findNotice (be16At noticeBody 0) = none ∧
      s.freeNotice = some 0 ∧ (1 : BitVec 4) = BitVec.ofNat 4 (2 ^ (0 : StreamId).val) ∧
      s.lane 0 = none ∧ s.committed 0 + 349 ≤ s.ceiling 0 ∧ s.enabled 0 = true ∧
      (noticeOf noticeBody).life = 60 ∧ (∀ k, s.notice k = .free) ∧
      s.noticeLane 0 (noticeOf noticeBody) 0 = {
        source := .notice 0, stream := 0, cls := 2, period := 188, m := 1, countdown := 0, air := 0, load := 349,
        repetition := .idle, closing := none, fresh := true }) ∧
    ∀ i l, s.lane i = some l → l.source ≠ .notice 0 := by
  refine ⟨by decide +kernel, fun i l hl => ?_⟩
  have := of_lanes (p := fun _ _ => false) (by decide +kernel) i l hl
  cases this

/-- A notice matched by four streams, with every lane free, with two free, and with no room on stream 1. -/
theorem witness_NewNoticeHeld_streams :
    let s := toldIn live 4 noticeBody
    let s := { s with receiver := { s.receiver with ready := some { type := 4, body := noticeBody, matched := 0xF } } }
    let crowded := { s with sched := { s.sched with lanes := Vector.ofFn fun i =>
      if i.val = 7 || i.val = 90 then none else some lane } }
    let given := fun (s : State) (is : List LaneId) =>
      let t := after (.feedMessageAction Env.quiet) s
      (is.map fun i => (t.lane i).map Lane.stream, (t.notice 0) == .held (noticeOf noticeBody), t.committed 3)
    [given s [0, 1, 2, 3, 4], given crowded [7, 90], given (s.setCommitted 1 58982) [0, 1, 2, 3]] =
      [([some 0, some 1, some 2, some 3, none], true, 349), ([some 0, some 1], true, 0),
        ([some 0, some 2, some 3, none], true, 349)] := by decide +kernel

/-- ALERT_BEGIN with level 0, renewed, with the table full, and new on an idle stream and past its values; ALERT_END
of one not there and of one there. -/
theorem witness_NameSetAndKeepalive_alerts :
    let s := announced { announcement 4 with origin := .feed }
    let full := { s with ann := { s.ann with table := .replicate 16 (some (announcement 4)) } }
    let said := fun (s : State) (type number level : Byte) =>
      after (.feedMessageAction Env.quiet) (toldIn s type ([number, level, 0, 0x0E, 0x11] ++ List.replicate 3 0))
    (said s 2 8 0).ann.table = s.ann.table ∧ (said full 2 8 1).ann.table = full.ann.table ∧
    ((said s 2 7 3).announcement 0).map Announcement.hold = some 3600 ∧
    ((said live 2 8 0xFF).announcement 0).map (fun a => (a.level, a.hold)) = some (7, 3600) ∧
    ((said live 2 8 0xFF).positions 0).current = some { entry := 0, level := 6, arrival := 0 } ∧
    (said live 2 8 0xFF).conds.flags.getLsbD (Condition.valueClamp.code - 1) = true ∧
    (said s 3 8 0).ann.table = s.ann.table ∧ (said s 3 7 0).announcement 0 = none := by decide +kernel

/-- The store with notice 5 in entry 3, with its lane on stream 0. -/
def storing (l : Lane) : State :=
  let held := live.setNotice 3 (.held (noticeOf noticeBody))
  (held.setLane 0 (some { l with source := .notice 3 })).setCommitted 0 l.load

/-- The notice's lane on stream 0. -/
def noticeLane : Lane := live.noticeLane 3 (noticeOf noticeBody) 0

/-- A cancellation of a notice held and of none; an update of the same shape, of another class and of a load that no
longer fits; a full store replaced and not replaced; and a notice that no stream can carry. -/
theorem witness_NoticeMessages :
    let told := fun (s : State) (id urgency life : Byte) => after (.feedMessageAction Env.quiet)
      (toldIn s 4 ([0, id, urgency, 0, life] ++ List.replicate 6 0))
    let low := fun s : State => withUnit { liveUnit with config := { config with ceiling := 0 } } s
    let full := { live with engine := { live.engine with store := .replicate 16 (.held (noticeOf noticeBody)) } }
    ((told (storing noticeLane) 5 0x80 1).notice 3 = .free ∧ (told (storing noticeLane) 5 0x80 1).lane 0 = none) ∧
    (told (storing noticeLane) 6 0x80 1).sched = (storing noticeLane).sched ∧
    (told (storing noticeLane) 5 2 2).lane 0 = (storing noticeLane).lane 0 ∧
    ((told (storing noticeLane) 5 1 2).lane 0).map Lane.cls =
      some (live.noticeLane 3 { noticeOf noticeBody with urgency := 1 } 0).cls ∧
    (told (low (storing noticeLane)) 5 1 2).notice 3 = .free ∧
    [1, 2].map (fun k => (told full 6 2 k).findNotice 6) = [none, some 0] ∧
    (told (low live) 6 2 1).conds.flags.getLsbD (Condition.feedDrop.code - 1) = true := by decide +kernel

/-- An update finds its notice held, with the lane table's rules. -/
theorem witness_NoticeMessages_update :
    let s := toldIn (storing noticeLane) 4 noticeBody
    s.LanesOk ∧ s.control.part = .running ∧ s.conds.haltPending = none ∧
    s.receiver.ready = some { type := 4, body := noticeBody, matched := 1 } ∧ 11 ≤ noticeBody.length ∧
    s.findNotice (be16At noticeBody 0) = some 3 ∧ s.notice 3 = .held (noticeOf noticeBody) ∧
    s.lane 0 = some noticeLane ∧ noticeLane.source = .notice 3 ∧ (noticeOf noticeBody).life ≠ 0 ∧
    ∀ k, k ≠ 3 → s.notice k = .free := by
  have zero := of_lanes (p := fun i l => decide (i = 0 ∧ l = noticeLane))
    (s := toldIn (storing noticeLane) 4 noticeBody) (by decide +kernel)
  refine ⟨⟨by decide +kernel, by decide +kernel, ?_, ?_⟩, by decide +kernel⟩
  · intro i j l k hi hj _ _
    rw [(of_decide_eq_true (zero i l hi)).1, (of_decide_eq_true (zero j k hj)).1]
  · intro i l e hi he
    have : l = noticeLane := (of_decide_eq_true (zero i l hi)).2
    subst this
    cases he

/-- A notice whose life is over, with a lane and without one in a repetition, and one with a second left. -/
theorem witness_LapsedNoticeReleased :
    let x := noticeOf noticeBody
    let s := fun (life : Nat) (r : Repetition) => (live.setNotice 3 (.held { x with life := life })).setLane 0
      (some { lane with source := .notice 3, repetition := r })
    (∀ r ∈ [Repetition.idle, .parts 1], (s 0 r).control.part = .running ∧
      (s 0 r).notice 3 = .held { x with life := 0 }) ∧
    (s 1 .idle).notice 3 = .held { x with life := 1 } ∧
    (after .noticeLifeExpired (s 0 .idle)).notice 3 = .free ∧ (after .noticeLifeExpired (s 0 .idle)).lane 0 = none ∧
    (after .noticeLifeExpired (s 0 (.parts 1))).notice 3 = .releasing ∧
    (after .noticeLifeExpired (s 1 .idle)).notice 3 = .held { x with life := 1 } := by decide +kernel

/-- A NOTICE of the id of a notice whose life is over is a new notice, in another entry while the old is releasing. -/
theorem witness_LapsedNoticeReleased_between :
    let lapsed := live.setNotice 0 (.held { noticeOf noticeBody with life := 0 })
    let late := fun r : Repetition =>
      toldIn (lapsed.setLane 0 (some { lane with source := .notice 0, repetition := r })) 4 noticeBody
    let told := fun r => after (.feedMessageAction Env.quiet) (late r)
    ((told .idle).findNotice 5 = some 0 ∧ ((told .idle).lane 0).map Lane.countdown = some 0) ∧
    ((told (.parts 1)).notice 0 = .releasing ∧ (told (.parts 1)).findNotice 5 = some 1) := by decide +kernel

/-- A step that writes memory, from canonical memory. -/
theorem witness_StepKeepsMemoryCanonical :
    let s := { polling with pending := [.statusWrite Env.quiet] }
    Memory.wf s.mem = true ∧ step s = .next (after (.statusWrite Env.quiet) polling) ∧
    (after (.statusWrite Env.quiet) polling).mem ≠ s.mem := ⟨rfl, rfl, by decide +kernel⟩

theorem witness_WritesOnlyExchangeArea :
    exec (.statusWrite Env.quiet) polling = .next (after (.statusWrite Env.quiet) polling) ∧
    ¬polling.inArea 0x5400 := by
  refine ⟨rfl, ?_⟩
  rintro ⟨off, lt, h⟩
  have base : polling.areaBase = 0 := by decide +kernel
  rw [State.areaAddr, base, show (0 : Word) = 0#32 from rfl, BitVec.zero_add, BitVec.toNat_ofNat] at h
  omega

/-! ## Records, busy streams and invariants -/

/-- Facts about the shadow entries in use, from a test of every entry. -/
theorem of_shadows {s : State} {p : ShadowId → Shadow → Bool} (h : ∀ e, (s.shadowAt e).all (p e) = true) (e : ShadowId)
    (sh : Shadow) (he : s.shadowAt e = some sh) : p e sh = true := by
  have := h e
  rw [he] at this
  exact this

/-- Facts about the announcements in the table, from a test of every entry. -/
theorem of_announcements {s : State} {p : AnnId → Announcement → Bool} (h : ∀ e, (s.announcement e).all (p e) = true)
    (e : AnnId) (a : Announcement) (he : s.announcement e = some a) : p e a = true := by
  have := h e
  rw [he] at this
  exact this

/-- A stream with a CURRENT entry, a stack and a full waiting list: levels 3, 2 and 3, 2, 1, 1. -/
def busyStream : AnnStream :=
  { current := some { entry := 0, level := 3, arrival := 4 }, suspended := [{ entry := 1, level := 2, arrival := 0 }]
    waiting := [⟨2, 3, 1⟩, ⟨3, 2, 2⟩, ⟨4, 1, 3⟩, ⟨5, 1, 5⟩], arrivals := 6 }

/-- An announcement of the board on stream 0. -/
def posted (number level : Nat) : Announcement :=
  { announcement 4 with number := BitVec.ofNat 8 number, level := level }

/-- A part with six announcements on stream 0 and none on the others, every poll due. -/
def boarded : State :=
  let s := { polling with ann := { polling.ann with
    table := Vector.ofFn fun e => if e.val < 6 then some (posted (e.val + 7) [3, 2, 3, 2, 1, 1][e.val]!) else none } }
  s.setPositions 0 busyStream

/-- The rules of the positions hold of a state when these tests of its entries and streams do. -/
theorem positionsOk_of (s : State) (ready : s.receiver.ready = none) (matched : s.receiver.matched = 0)
    (ceilings : ∀ n, s.enabled n = true → 1 ≤ (s.unit n).config.feedCeiling)
    (table : ∀ e, (s.announcement e).all (fun a => decide (a.mask ≠ 0 ∧ a.number ≠ 0 ∧ 1 ≤ a.level ∧ a.level ≤ 7 ∧
      (∀ n : StreamId, a.mask.getLsbD n.val = true ↔ ∃ p ∈ (s.positions n).all, p.entry = e) ∧
      ∀ f, (s.announcement f).all fun b => decide (a.origin = b.origin → a.number = b.number → e = f))) = true)
    (used : ∀ n, ∀ p ∈ (s.positions n).all, s.announcement p.entry ≠ none)
    (enabled : ∀ n, (s.positions n).all ≠ [] → s.enabled n = true)
    (streams : ∀ n, (s.positions n).Ok ∧ (s.positions n).Ordered) : s.PositionsOk := by
  have fact := fun e a h => of_decide_eq_true (of_announcements table e a h)
  refine ⟨⟨ceilings, fun n h => ?_, fun msg h => ?_⟩,
    ⟨fun e a n h => (fact e a h).2.2.2.2.1 n, fun e a h => (fact e a h).1, used, enabled, fun e f a b ha hb => ?_, fun e a h => ⟨(fact e a h).2.1, (fact e a h).2.2.1, (fact e a h).2.2.2.1⟩⟩,
    streams⟩
  · rw [matched] at h
    simp at h
  · rw [ready] at h
    cases h
  · have := (fact e a ha).2.2.2.2.2 f
    rw [hb] at this
    exact of_decide_eq_true this

theorem busyStream_ok : busyStream.Ok ∧ busyStream.Ordered :=
  ⟨⟨by decide, by decide, by decide, by decide, by decide⟩, ⟨by decide, by decide, by decide, by decide⟩⟩

theorem resetStream_ok : AnnStream.reset.Ok ∧ AnnStream.reset.Ordered :=
  ⟨⟨by decide, by decide, by decide, by decide, by decide⟩, ⟨by decide, by decide, by decide, by decide⟩⟩

theorem boarded_positionsOk : boarded.PositionsOk := by
  refine positionsOk_of boarded rfl rfl (by decide +kernel) (by decide +kernel) (by decide +kernel) (by decide +kernel)
    fun n => ?_
  have : boarded.positions n = if n = 0 then busyStream else AnnStream.reset := by
    revert n
    decide +kernel
  rw [this]
  split
  · exact busyStream_ok
  · exact resetStream_ok

theorem fetching_schedulerOk : fetching.SchedulerOk := by
  have lanes := fun i l h => of_decide_eq_true (of_lanes (s := fetching)
    (p := fun i l => decide (i = 0 ∧ l = { lane with repetition := .fetching })) (by decide +kernel) i l h)
  have shadows := fun e sh h => of_decide_eq_true (of_shadows (s := fetching)
    (p := fun e sh => decide (e = 0 ∧ sh = shadow)) (by decide +kernel) e sh h)
  have forming : ∀ n, (fetching.unit n).buffer = .forming := by decide +kernel
  have fetches : ∀ n, (fetching.unit n).fetch = if n = 0 then some fetch else none := by decide +kernel
  refine ⟨⟨by decide +kernel, by decide +kernel, fun i j l k hi hj _ _ => ?_, fun i l e hi he => ?_⟩,
    ⟨fun e f sh th he hf _ => ?_, fun e sh he => ?_⟩, ⟨fun i l h => ?_, fun i l h => ?_, fun i l h => ?_⟩,
    ⟨fun i j l k hi hj _ _ _ => ?_, fun i l h hf => ?_, fun _ i l h _ => ?_, fun _ i l k h hr => ?_, fun n f h => ?_,
      by decide +kernel, fun n c _ => ?_⟩,
    ⟨by decide +kernel, by decide +kernel, by decide +kernel⟩⟩
  · rw [(lanes i l hi).1, (lanes j k hj).1]
  · obtain ⟨_, rfl⟩ := lanes i l hi
    cases he
    decide +kernel
  · rw [(shadows e sh he).1, (shadows f th hf).1]
  · obtain ⟨rfl, _⟩ := shadows e sh he
    exact ⟨0, { lane with repetition := .fetching }, by decide +kernel, rfl⟩
  · obtain ⟨_, rfl⟩ := lanes i l h
    decide
  · obtain ⟨_, rfl⟩ := lanes i l h
    decide
  · obtain ⟨_, rfl⟩ := lanes i l h
    decide
  · rw [(lanes i l hi).1, (lanes j k hj).1]
  · obtain ⟨_, rfl⟩ := lanes i l h
    cases hf
  · obtain ⟨rfl, rfl⟩ := lanes i l h
    exact ⟨fetch, by decide +kernel, rfl⟩
  · obtain ⟨_, rfl⟩ := lanes i l h
    cases hr
  · rw [fetches n] at h
    split at h
    · next h0 =>
      subst h0
      cases h
      exact ⟨by decide, by decide, by decide +kernel, by decide +kernel, fun c => by rw [forming]; exact nofun,
        { lane with repetition := .fetching }, 0, by decide +kernel, rfl, rfl, rfl⟩
    · cases h
  · rw [forming]
    exact nofun

theorem witness_StepKeepsLaneTable :
    fetching.SchedulerOk ∧
    step { fetching with pending := [.fetchEnd 0 Env.quiet] } = .next (after (.fetchEnd 0 Env.quiet) fetching) ∧
    (after (.fetchEnd 0 Env.quiet) fetching).lane 0 ≠ fetching.lane 0 := ⟨fetching_schedulerOk, rfl, by decide +kernel⟩

theorem witness_StepKeepsPositions :
    boarded.PositionsOk ∧
    step { boarded with pending := [.holdExpired Env.quiet] } = .next (after (.holdExpired Env.quiet) boarded) :=
  ⟨boarded_positionsOk, rfl⟩

/-- The prescale count, the samples left, the sampler and the commands after a cycle: below Df and at it, inactive, and
at the last sample of a character. -/
theorem witness_ClockCycleCountsToTick_samples :
    let cycle := fun (active : Bool) (prescale : Nat) (sampler : Sampler) =>
      match step { live with
          general := { live.general with feedDivisor := 4 }, feedIn := [false, true]
          receiver := { Receiver.reset with active := active, prescale := prescale, sampler := sampler } } with
      | .next t => (t.receiver.prescale, t.feedIn.length, t.receiver.sampler, t.pending.length)
      | .fault _ => (0, 0, .waitHigh, 0)
      | .refused _ => (0, 0, .waitHigh, 0)
    [cycle true 3 .waitFall, cycle true 4 .waitFall, cycle false 4 .waitFall,
      cycle true 4 (.bits 15 (List.replicate 9 true))] =
    [(4, 2, .waitFall, 0), (0, 1, .startBit 0, 0), (4, 2, .waitFall, 0), (0, 1, .waitHigh, 1)] := by decide +kernel

/-- A STARTING part meets the rules of streams off air. -/
theorem witness_StartCompletes_offAir :
    (inPart .starting).OffAirOk ∧ ((after (.startCompletion goodHeader) (inPart .starting)).unit 1).output = .off :=
  ⟨⟨by decide +kernel, by decide +kernel, by decide +kernel⟩, by decide +kernel⟩

/-- The fields of a log record that its kind decides: kind, stream, reason, auxiliary field and subject. -/
def logged (t : State) (k : Nat) : List Byte := t.area (Config.offLog + 16 * k) 6

/-- Two items held, in falling slot order, and what the teardown logs of them. -/
theorem witness_StopTeardownRetiresAndEmpties_records :
    let s := ((inPart .stopping).setShadow 0 (some shadow)).setShadow 1 (some { shadow with slot := 1, desk := 9 })
    let t := after (.stopTeardown Env.quiet) { s with
      control := { s.control with stopFrom := .held }, conds := { s.conds with haltCause := some .underrun } }
    (s.shadowAt 1).isSome = true ∧ t.writePosition = 3 ∧
    [logged t 0, logged t 1, logged t 2] = [[3, 0xFF, 21, 9, 1, 0], [3, 0xFF, 21, 0, 2, 0], [0x51, 0xFF, 3, 4, 2, 0]] ∧
    t.area 0x47C 8 = [21, 5, 0, 0, 0, 0, 0, 0] := by decide +kernel

/-- The CURRENT entry of a busy stream expires: its ending and the promotion, and with room for one record alone. -/
theorem witness_ExpiredHoldsEnd_records :
    let s := boarded.setAnnouncement 0 (some { posted 7 3 with hold := 0 })
    let t := fun env => after (.holdExpired env) s
    s.holdOver 0 = true ∧ [logged (t Env.quiet) 0, logged (t Env.quiet) 1] =
      [[0x13, 0xFF, 3, 3, 7, 0], [0x11, 0, 3, 3, 9, 0]] ∧
    ((t Env.quiet).writePosition, (t (wrote 0xF0 [2])).writePosition, (t (wrote 0xF0 [2])).conds.flags) =
      (2, 1, Condition.logFull.bit) := by decide +kernel

/-- The CLOCK_SET record of a set that follows a feed's. -/
theorem witness_BoardClockSet_record :
    let s := { polling with clock := { polling.clock with origin := some .feed } }
    (after (.clockSetPoll (wrote 0x100 [1, 0, 0, 0, 7])) s).area Config.offLog 16 =
      [0x30, 0xFF, 1, 2, 1, 0, 0, 0, 7, 0, 0, 0, 0, 0, 0, 0] := by decide +kernel

/-- The records of an admission, a rejection, a deferral and an orphan, with the desk 0 of the item and its slot 2. -/
theorem witness_AdmittedItemHasLanes_record :
    let visited := fun (s : State) (st kind : Nat) =>
      logged (after (.sweepVisit (wrote 0x460 (itemBytes st 7 0 kind 1 1000 0x1000 32))) s) 0
    [visited empty 1 6, visited empty 1 2, visited (empty.setCommitted 0 58982) 1 6, visited empty 2 6] =
      [[1, 0xFF, 0, 0, 2, 0], [2, 0xFF, 1, 0, 2, 0], [4, 0xFF, 3, 0, 2, 0], [3, 0xFF, 20, 0, 2, 0]] := by decide +kernel

/-- A NAME that is truncated and substituted, with no halt bit, both and the second alone; one only truncated; one only
substituted; and a NOTICE whose text has no air code. -/
theorem witness_FetchEndCompletesStart_text :
    let fetched := fun (kind : ItemKind) (length : Nat) (mask : BitVec 13) (env : Env) =>
      let s := fetching.setShadow 0 (some { shadow with kind := kind, length := length, m := 2 })
      let t := after (.fetchEnd 0 env) { s with conds := { live.conds with haltMask := mask } }
      (t.conds.flags.toNat, t.conds.haltPending.map fun c => (c.cause, c.place.slot, c.place.address))
    let text := wrote 0x1000 (List.replicate 17 0x41)
    [fetched .name 17 0 Env.quiet, fetched .name 17 0x30 Env.quiet, fetched .name 17 0x10 Env.quiet,
      fetched .name 17 0x1FFF text, fetched .name 16 0 Env.quiet, fetched .notice 14 0 Env.quiet,
      fetched .notice 14 0x1FFF text] =
    [(0x30, none), (0x30, some (.textTrunc, 2, 0x1000)), (0x30, some (.textSubst, 2, 0x1000)),
      (0x20, some (.textTrunc, 2, 0x1000)), (0x10, none), (0x10, none), (0, none)] := by decide +kernel

/-- Offers at the last number of the arrival counter and at the one before it. -/
theorem witness_OfferByLevel_limit :
    let counting := fun k : Nat => { busyStream with arrivals := k }
    let offered := fun (k level : Nat) =>
      let r := (counting k).offer 9 level
      (r.2.all.map Position.arrival, r.2.arrivals)
    (counting 0xFFFFFFFF).Ok ∧ (counting 0xFFFFFFFF).Ordered ∧
    [offered 0xFFFFFFFE 5, offered 0xFFFFFFFF 5, offered 0xFFFFFFFF 2, offered 0xFFFFFFFF 1] =
      [([0xFFFFFFFE, 4, 0, 1, 2, 3, 5], 0xFFFFFFFF), ([6, 4, 0, 1, 2, 3, 5], 7), ([4, 0, 1, 2, 5, 3], 6),
        ([4, 0, 1, 2, 3, 5], 0xFFFFFFFF)] :=
  ⟨⟨by decide, by decide, by decide, by decide, by decide⟩, ⟨by decide, by decide, by decide, by decide⟩,
    by decide +kernel⟩

/-- A BEGIN at a level with a mask, its number not in the table. -/
def beginAt (level : Nat) (mask : BitVec 4) : AnnRequest :=
  { request := 1, op := 1, number := 99, level := level, kind := 0, mask := mask, duration := 0 }

/-- On a busy stream: pushed, queued over the entry displaced, and refused; and on it and an idle one. The outcome, the
entry's mask, whether the entry displaced is in the table, and the kinds of the records. -/
theorem witness_BoardBeginOnIdleAndBusyStreams_busy :
    let tried := fun (level : Nat) (mask : BitVec 4) =>
      let r := boarded.boardBegin 1 (beginAt level mask)
      (r.1, (r.2.announcement 6).map Announcement.mask, (r.2.announcement 5).isSome,
        (List.range 4).map fun k => byteAt (logged r.2 k) 0)
    boarded.PositionsOk ∧ boarded.freeAnnouncement = some 6 ∧ boarded.findAnnouncement .board 99 = none ∧
    boarded.bus = [] ∧ Memory.wf boarded.mem = true ∧
    [tried 5 1, tried 2 1, tried 1 1, tried 2 3] =
      [(.begun, some 1, true, [0x10, 0x12, 0x11, 0]), (.queued, some 1, false, [0x10, 0x13, 0, 0]),
        (.refusedStreams, none, true, [0x14, 0, 0, 0]), (.begun, some 3, false, [0x10, 0x13, 0x11, 0])] :=
  ⟨boarded_positionsOk, by decide +kernel⟩

/-- The same BEGINs and other ops by a board request: the answer and the first two records. -/
theorem witness_PollTakesEveryRequest_records :
    let polled := fun (op number level mask : Byte) =>
      let t := after (.announcementPoll (wrote 0x140 [1, 0, op, 0, number, level, 0, mask])) boarded
      (t.area 0x143 1, logged t 0, logged t 1)
    [polled 1 99 5 1, polled 1 99 2 1, polled 1 99 1 1, polled 1 99 0 1, polled 2 7 0 0] =
      [([1], [0x10, 0xFF, 1, 5, 99, 0], [0x12, 0, 0, 3, 7, 0]),
        ([2], [0x10, 0xFF, 1, 2, 99, 0], [0x13, 0xFF, 5, 1, 12, 0]),
        ([7], [0x14, 0xFF, 7, 1, 99, 0], [0, 0, 0, 0, 0, 0]), ([8], [0x14, 0xFF, 8, 0, 99, 0], [0, 0, 0, 0, 0, 0]),
        ([4], [0x13, 0xFF, 1, 3, 7, 0], [0x11, 0, 3, 3, 9, 0])] := by decide +kernel

/-- False starts, 1 and 0 between; a character of 0 with stop 1 and with stop 0; and a line held at 0. -/
theorem witness_SamplerTakesCharacter :
    let run := fun (samples : List Bool) =>
      samples.foldl (fun (y : Sampler × List Sampled) b =>
        ((y.1.take .none b).1, y.2 ++ (y.1.take .none b).2.toList)) (.waitFall, [])
    let zeros := fun k : Nat => List.replicate k false
    let ones := fun k : Nat => List.replicate k true
    let zero : Sampled := { data := 0, parity := false, mark := false, stop := false }
    [run (false :: ones 7 ++ [true]), run (false :: zeros 7 ++ [true]), run (zeros 160 ++ ones 16), run (zeros 176),
      run (zeros 400)] =
    [(.waitFall, []), (.waitFall, []), (.waitFall, [{ zero with stop := true }]), (.waitHigh, [zero]),
      (.waitHigh, [zero])] := by decide +kernel

/-- FEED_OK from SILENT and from LOST, with the message's type. -/
theorem witness_MessageCompletes_record :
    [FeedState.silent, .lost].map (fun f =>
      logged (after (.feedCharacter 0xF3 false false true Env.quiet) (hearing f [3, 1, 9])) 0) =
    [[0x20, 0xFF, 1, 0, 3, 0], [0x20, 0xFF, 2, 0, 3, 0]] := by decide +kernel

/-- The loss of a feed with one announcement of its own. -/
theorem witness_FeedLossEndsFeedAnnouncements_records :
    let s := { boarded.setAnnouncement 0 (some { posted 7 3 with origin := .feed }) with
      receiver := { Receiver.reset with feed := .live, silence := 10 }
      general := { GeneralConfig.reset with silenceLimit := 10 } }
    let t := after (.feedLost Env.quiet) s
    [logged t 0, logged t 1, logged t 2] =
      [[0x21, 0xFF, 0, 1, 10, 0], [0x13, 0xFF, 4, 3, 7, 0x80], [0x11, 0, 3, 3, 9, 0]] := by decide +kernel

/-- A KEEPALIVE moves the time by 2 seconds, by 1, changes the offset, and follows a board's set: the log. -/
theorem witness_NameSetAndKeepalive_record :
    let kept := fun (o : Origin) (time offset : Byte) =>
      logged (after (.feedMessageAction Env.quiet) (toldIn { clocked .feed .live with
        clock := { live.clock with source := .feed, origin := some o, time := 9 } } 5 [0, 0, 0, time, offset, 0])) 0
    [kept .feed 11 0, kept .feed 10 0, kept .feed 9 1, kept .board 9 0] =
      [[0x30, 0xFF, 2, 2, 0, 0], [0, 0, 0, 0, 0, 0], [0x30, 0xFF, 2, 2, 0, 0], [0x30, 0xFF, 2, 1, 0, 0]] := by
  decide +kernel

/-- ALERT_BEGIN on a busy stream, pushed, queued and refused, and ALERT_END: the first two records. -/
theorem witness_NameSetAndKeepalive_alertRecords :
    let s := boarded.setAnnouncement 0 (some { posted 7 3 with origin := .feed })
    let said := fun (type number level : Byte) =>
      let t := after (.feedMessageAction Env.quiet) (toldIn s type [number, level, 0, 0, 0])
      (logged t 0, logged t 1)
    [said 2 99 5, said 2 99 2, said 2 99 1, said 3 7 0] =
      [([0x10, 0xFF, 1, 5, 99, 0x80], [0x12, 0, 0, 3, 7, 0x80]),
        ([0x10, 0xFF, 1, 2, 99, 0x80], [0x13, 0xFF, 5, 1, 12, 0]),
        ([0x14, 0xFF, 7, 1, 99, 0x80], [0, 0, 0, 0, 0, 0]), ([0x13, 0xFF, 1, 3, 7, 0x80], [0x11, 0, 3, 3, 9, 0])] := by
  decide +kernel

/-- An update and a replacement matched by streams 0 and 1: the streams of lanes 0 and 1 and the first record; an update
that loses its lane, a full store, and no stream with room: the records. -/
theorem witness_NoticeMessages_lanes :
    let matched := fun (s : State) (id urgency life : Byte) (mask : BitVec 4) =>
      after (.feedMessageAction Env.quiet) { s with receiver := { s.receiver with
        ready := some { type := 4, body := [0, id, urgency, 0, life] ++ List.replicate 6 0, matched := mask } } }
    let on := fun t : State => [(t.lane 0).map Lane.stream, (t.lane 1).map Lane.stream]
    let s := storing noticeLane
    let other : FeedNotice := { noticeOf noticeBody with id := 6, life := 61 }
    let full := { s with engine := { s.engine with store := (Vector.replicate 16 (.held other)).set 3 (s.notice 3) } }
    let low := fun s : State => withUnit { liveUnit with config := { config with ceiling := 0 } } s
    [on (matched s 5 2 2 3), on (matched s 5 1 2 3), on (matched full 99 2 3 3)] =
      [[some 0, some 1], [some 0, some 1], [some 0, some 1]] ∧
    [logged (matched full 99 2 3 3) 0, logged (matched (low s) 5 1 2 1) 0, logged (matched full 99 2 1 1) 0,
      logged (matched (low live) 6 2 1 1) 0] =
      [[0x22, 0xFF, 3, 2, 5, 0], [0x22, 0xFF, 4, 1, 5, 0], [0x22, 0xFF, 2, 2, 99, 0], [0x22, 0xFF, 1, 2, 6, 0]] := by
  decide +kernel

end Sys2Proof.Tests
end

section
/-! SUPPORT. Access windows: what a window's bytes say (R49, R50), where a window stands in its table (R184), and
which window contains a range (R52); O24 is settled at the end. -/

namespace Sys2Proof.Machine

/-! ## Fields of a sublist -/

@[simp] theorem byteAt_drop (bs : List Byte) (k i : Nat) : byteAt (bs.drop k) i = byteAt bs (k + i) := by
  simp [byteAt, List.getD_eq_getElem?_getD]

@[simp] theorem le32At_drop (bs : List Byte) (k i : Nat) : le32At (bs.drop k) i = le32At bs (k + i) := by
  simp [le32At, Nat.add_assoc]

/-! ## The two lowest bits of a word and of a byte -/

/-- The mask of R49's low bound leaves out bits 0 and 1 alone. -/
theorem getLsbD_clearMask : ∀ i < 32, (0xFFFFFFFC : Word).getLsbD i = decide (2 ≤ i) := by decide

/-- The mask of R49's high bound is bits 0 and 1 alone. -/
theorem getLsbD_setMask : ∀ i < 32, (0x00000003 : Word).getLsbD i = decide (i < 2) := by decide

theorem clearLow_eq_shift (x : Word) : x &&& (0xFFFFFFFC : Word) = x >>> 2 <<< 2 := by
  refine BitVec.eq_of_getLsbD_eq fun i hi => ?_
  rw [BitVec.getLsbD_and, getLsbD_clearMask i hi]
  by_cases h : i < 2
  · simp [h]
  · simp [h, hi, show 2 + (i - 2) = i by omega, show 2 ≤ i by omega]

theorem setLow_eq_clearLow_or (x : Word) :
    x ||| (0x00000003 : Word) = (x &&& (0xFFFFFFFC : Word)) ||| (0x00000003 : Word) := by
  refine BitVec.eq_of_getLsbD_eq fun i hi => ?_
  rw [BitVec.getLsbD_or, BitVec.getLsbD_or, BitVec.getLsbD_and, getLsbD_clearMask i hi, getLsbD_setMask i hi]
  by_cases h : i < 2
  · simp [h]
  · simp [h, show 2 ≤ i by omega]

theorem toNat_clearLow (x : Word) : (x &&& (0xFFFFFFFC : Word)).toNat = x.toNat - x.toNat % 4 := by
  rw [clearLow_eq_shift]
  simp only [BitVec.toNat_shiftLeft, BitVec.toNat_ushiftRight, Nat.shiftRight_eq_div_pow, Nat.shiftLeft_eq]
  omega

theorem toNat_setLow (x : Word) : (x ||| (0x00000003 : Word)).toNat = x.toNat - x.toNat % 4 + 3 := by
  have words : x.toNat - x.toNat % 4 = 2 ^ 2 * (x.toNat / 4) := by omega
  rw [setLow_eq_clearLow_or, BitVec.toNat_or, toNat_clearLow, words]
  exact (Nat.two_pow_add_eq_or_of_lt (by decide) _).symm

theorem getLsbD_zero_iff_toNat (b : Byte) : b.getLsbD 0 = true ↔ b.toNat % 2 = 1 := by
  simp [BitVec.getLsbD, Nat.testBit_zero]

theorem getLsbD_one_iff_toNat (b : Byte) : b.getLsbD 1 = true ↔ b.toNat / 2 % 2 = 1 := by
  simp [BitVec.getLsbD, Nat.testBit_succ]

/-! ## A window from its bytes -/

variable (bs : List Byte)

theorem windowOf_low_toNat : (windowOf bs).low.toNat = (le32At bs 0).toNat - (le32At bs 0).toNat % 4 :=
  toNat_clearLow _

theorem windowOf_high_toNat : (windowOf bs).high.toNat = (le32At bs 4).toNat - (le32At bs 4).toNat % 4 + 3 :=
  toNat_setLow _

theorem windowOf_desk_toNat : (windowOf bs).desk.toNat = (byteAt bs 8).toNat % 16 := by simp [windowOf]

theorem windowOf_enabled_iff : (windowOf bs).enabled = true ↔ (byteAt bs 9).toNat % 2 = 1 :=
  getLsbD_zero_iff_toNat _

theorem windowOf_global_iff : (windowOf bs).global = true ↔ (byteAt bs 9).toNat / 2 % 2 = 1 :=
  getLsbD_one_iff_toNat _

/-- A window's extent is whole words (R49). -/
theorem four_dvd_windowOf_extent : 4 ∣ (windowOf bs).high.toNat + 1 - (windowOf bs).low.toNat := by
  rw [windowOf_high_toNat, windowOf_low_toNat]
  omega

/-- Window w of a table stands at byte 12 × w (R184). -/
theorem windowsOf_getElem (w : Fin 8) : (windowsOf bs)[w] = windowOf (bs.drop (12 * w.val)) := by
  simp [windowsOf]

/-! ## What a window admits and holds -/

theorem Window.admits_iff {w : Window} {desk : BitVec 4} :
    w.admits desk = true ↔ w.enabled = true ∧ (w.global = true ∨ w.desk = desk) := by
  simp [Window.admits]

theorem Window.holds_iff {w : Window} {a e : Nat} : w.holds a e = true ↔ w.low.toNat ≤ a ∧ e ≤ w.high.toNat := by
  simp [Window.holds]

/-- R50: an empty window holds no range. -/
theorem Window.holds_of_high_lt_low {w : Window} {a e : Nat} (empty : w.high.toNat < w.low.toNat) (le : a ≤ e) :
    w.holds a e = false := by
  rw [Bool.eq_false_iff, ne_eq, Window.holds_iff]
  omega

theorem Window.holds_itself (w : Window) : w.holds w.low.toNat w.high.toNat = true :=
  Window.holds_iff.2 ⟨le_rfl, le_rfl⟩

/-- A window that can contain a range for a desk (R52). -/
abbrev Window.contains (w : Window) (desk : BitVec 4) (a e : Nat) : Prop :=
  (w.enabled = true ∧ (w.global = true ∨ w.desk = desk)) ∧ w.low.toNat ≤ a ∧ e ≤ w.high.toNat

theorem Window.contains_iff {w : Window} {desk : BitVec 4} {a e : Nat} :
    (w.admits desk && w.holds a e) = true ↔ w.contains desk a e := by
  rw [Bool.and_eq_true, Window.admits_iff, Window.holds_iff]

/-! ## The containing window -/

variable {ws : Vector Window 8} {desk : BitVec 4} {a e : Nat}

theorem containingWindow_eq_some_iff {w : Fin 8} : containingWindow ws desk a e = some w ↔
    ws[w].contains desk a e ∧ ∀ v < w, ¬ws[v].contains desk a e := by
  rw [containingWindow, ← Fin.find?_eq_find?_finRange, Fin.find?_eq_some_iff, Window.contains_iff]
  simp only [← Bool.not_eq_true, Window.contains_iff]

theorem containingWindow_eq_none_iff :
    containingWindow ws desk a e = none ↔ ∀ w : Fin 8, ¬ws[w].contains desk a e := by
  rw [containingWindow, ← Fin.find?_eq_find?_finRange, Fin.find?_eq_none_iff]
  simp only [← Bool.not_eq_true, Window.contains_iff]

/-! ## The statement -/

/-- Settles O24: each field of a window by its bytes, the empty window and the window's own range, and the containing
window as the first one found. -/
theorem windowsLoadAndContain : Obligations.WindowsLoadAndContain := by
  refine ⟨fun bs w => ?loaded, fun bs => ?extent, fun ws desk a e _ => ?containing⟩
  case loaded =>
    simp only [windowsOf_getElem, windowOf_low_toNat, windowOf_high_toNat, windowOf_desk_toNat, windowOf_enabled_iff,
      windowOf_global_iff, le32At_drop, byteAt_drop, Nat.add_zero, and_self]
  case extent =>
    exact ⟨windowOf_low_toNat bs, windowOf_high_toNat bs, fun empty _ _ le => Window.holds_of_high_lt_low empty le,
      fun _ => ⟨Window.holds_itself _, four_dvd_windowOf_extent bs⟩⟩
  case containing =>
    exact ⟨fun _ => containingWindow_eq_some_iff, containingWindow_eq_none_iff⟩

end Sys2Proof.Machine
end

section
/-! SUPPORT. Switch outputs: when the part is on air (R112), and that STOP and the resets leave it off air (R175,
R176); O47 is settled at the end. -/

namespace Sys2Proof

theorem Instr.isReset_iff {c : Instr} : c.isReset = true ↔ c = .reset ∨ c = .rstN := by
  cases c <;> simp [Instr.isReset]

namespace Machine

theorem PartState.onAir_iff {p : PartState} : p.onAir = true ↔ p = .running ∨ p = .held := by
  cases p <;> simp [PartState.onAir]

namespace State

variable {s t : State} {n : StreamId}

/-! ## The level of a switch output -/

/-- R112. -/
theorem answ_iff : s.answ n = true ↔
    (s.control.part = .running ∨ s.control.part = .held) ∧ s.enabled n = true ∧
      (s.unit n).config.switchThreshold ≠ 0 ∧ (s.unit n).config.switchThreshold ≤ s.level n := by
  simp only [answ, Bool.and_eq_true, decide_eq_true_eq, PartState.onAir_iff, and_assoc]

/-- Off air no switch output is active, whatever the stream's level. -/
theorem answ_of_not_onAir (off : s.control.part.onAir = false) : s.answ n = false := by
  simp [answ, off]

/-! ## The part state after STOP and after a reset -/

@[simp] theorem resetWith_part (base : Word) (s : State) : (s.resetWith base).control.part = .stopped := rfl

end State

open State

variable {s t : State} {c : Instr}

theorem exec_stop_stopping {u : Option UnderWay} (air : s.control.part.onAir = true)
    (run : exec (.stop u) s = .next t) : t.control.part = .stopping := by
  simp only [exec, execStop, air, if_true, Host.Outcome.next.injEq] at run
  exact run ▸ (takeStop_stopping u s).1

theorem exec_reset_stopped (reset : c.isReset = true) (run : exec c s = .next t) : t.control.part = .stopped := by
  obtain rfl | rfl := Instr.isReset_iff.1 reset
  · simp only [exec, execReset, Host.Outcome.next.injEq] at run
    exact run ▸ resetWith_part _ s
  · simp only [exec, execRstN, Host.Outcome.next.injEq] at run
    exact run ▸ resetWith_part _ s

/-! ## The statement -/

/-- Settles O47: the four conditions of R112 are those of the output, and STOP accepted and the resets leave the part
in a state off air, where it is inactive. -/
theorem switchOutput : Obligations.SwitchOutput := by
  refine ⟨fun s n => answ_iff, fun c s t n stopOrReset run accepted => answ_of_not_onAir ?offAir⟩
  rcases stopOrReset with ⟨u, rfl⟩ | reset
  case offAir.inl =>
    rw [exec_stop_stopping (PartState.onAir_iff.2 (accepted ⟨u, rfl⟩)) run]
    rfl
  case offAir.inr =>
    rw [exec_reset_stopped reset run]
    rfl

end Machine
end Sys2Proof
end

section
/-! SUPPORT. The COND flags (R153): one lemma for each operation through which a command can reach a flag, saying that a
flag that is set stays set; the operations in the order of the model's blocks. O6 is settled at the end. -/

namespace Sys2Proof.Machine

/-- Bit b of COND is set. -/
def State.FlagSet (s : State) (b : Nat) : Prop := s.conds.flags.getLsbD b = true

namespace State

variable {s t : State} {b : Nat}

/-! ## Conditions and frames -/

theorem FlagSet.congr (h : s.FlagSet b) (same : t.conds = s.conds) : t.FlagSet b := by
  unfold FlagSet
  rw [same]
  exact h

/-- The flag in the state that an operation answers beside its result. -/
theorem FlagSet.of_eq {α : Type} {p : α × State} {x : α} (h : p.2.FlagSet b) (answer : p = (x, t)) : t.FlagSet b := by
  subst answer
  exact h

theorem FlagSet.ite {p : Prop} [Decidable p] (yes : s.FlagSet b) (no : t.FlagSet b) :
    (if p then s else t).FlagSet b := by
  split
  · exact yes
  · exact no

theorem LaneFrame.flagSet (f : s.LaneFrame t) (h : s.FlagSet b) : t.FlagSet b := h.congr (congrArg (·.conds) f)

theorem AnnFrame.flagSet (f : s.AnnFrame t) (h : s.FlagSet b) : t.FlagSet b := h.congr f.conds

theorem cause_flagSet (c : Condition) (w : FaultWhere) (h : s.FlagSet b) : (s.cause c w).FlagSet b := by
  have h : s.conds.flags.getLsbD b = true := h
  rw [FlagSet, cause_flags, BitVec.getLsbD_or, h, Bool.true_or]

theorem causeIf_flagSet (x : Bool) (c : Condition) (w : FaultWhere) (h : s.FlagSet b) :
    (s.causeIf x c w).FlagSet b := by
  cases x
  · exact h
  · exact cause_flagSet c w h

/-! ## Transfers and the air log -/

theorem readArea_flagSet (off len : Nat) (h : s.FlagSet b) : (s.readArea off len).2.FlagSet b := by
  rcases readArea_cases s off len with e | e <;> rw [e]
  · exact h
  · exact cause_flagSet _ _ (s := s.dropEnd) h

theorem writeArea_flagSet (off : Nat) (bs : List Byte) (h : s.FlagSet b) : (s.writeArea off bs).2.FlagSet b := by
  rcases writeArea_cases s off bs with e | ⟨k, e⟩ <;> rw [e]
  · exact h
  · exact cause_flagSet _ _ (s := { s.dropEnd with mem := _ }) h

theorem readPayload_flagSet (a : Word) (len : Nat) (h : s.FlagSet b) : (s.readPayload a len).2.FlagSet b := by
  rcases readPayload_cases s a len with e | e <;> rw [e] <;> exact h

theorem writeAll_flagSet (ws : List (Nat × List Byte)) (h : s.FlagSet b) : (s.writeAll ws).2.FlagSet b := by
  induction ws generalizing s with
  | nil => exact h
  | cons w ws ih =>
    have first := writeArea_flagSet w.1 w.2 h
    unfold writeAll
    split
    · next e => exact ih (first.of_eq e)
    · next e => exact first.of_eq e

theorem readAll_flagSet (rs : List (Nat × Nat)) (h : s.FlagSet b) : (s.readAll rs).2.FlagSet b := by
  induction rs generalizing s with
  | nil => exact h
  | cons r rs ih =>
    have first := readArea_flagSet r.1 r.2 h
    unfold readAll
    split
    · next e => exact first.of_eq e
    · next e =>
      have rest := ih (first.of_eq e)
      split
      · next e' => exact rest.of_eq e'
      · next e' => exact rest.of_eq e'

theorem appendAt_flagSet (e : LogEvent) (time cells : Word) (h : s.FlagSet b) :
    (s.appendAt e time cells).2.FlagSet b := by
  have read := readArea_flagSet Config.offReadPosition 2 h
  unfold appendAt
  split
  · next eq => exact (read.of_eq eq :)
  · next bs s1 eq =>
    replace read := read.of_eq eq
    split
    · exact cause_flagSet _ _ read
    · have record := writeArea_flagSet (Config.offLog + Config.logSize * s1.writePosition.toNat)
        (logBytes e time cells) read
      split
      · next eq => exact (record.of_eq eq :)
      · next s2 eq =>
        have position := writeArea_flagSet Config.offWritePosition (le16 (s2.bumpLog.writePosition.setWidth 16))
          (s := s2.bumpLog) (record.of_eq eq :)
        dsimp only
        split
        · exact position
        · exact position

theorem append_flagSet (e : LogEvent) (h : s.FlagSet b) : (s.append e).2.FlagSet b := appendAt_flagSet _ _ _ h

theorem report_flagSet (e : LogEvent) (h : s.FlagSet b) : (s.report e).FlagSet b := append_flagSet e h

theorem reportAll_flagSet (es : List LogEvent) (h : s.FlagSet b) : (s.reportAll es).FlagSet b := by
  induction es generalizing s with
  | nil => exact h
  | cons e es ih => exact ih (report_flagSet e h)

theorem withBus_flagSet {f : State → State} (env : Env) (keeps : ∀ s : State, s.FlagSet b → (f s).FlagSet b)
    (h : s.FlagSet b) : (withBus env f s).FlagSet b := keeps (s.beginBus env) h

/-! ## Lanes, items and notices -/

theorem retireItem_flagSet (e : ShadowId) (r : RetireReason) (h : s.FlagSet b) : (s.retireItem e r).FlagSet b := by
  unfold retireItem
  split
  · exact h
  · exact report_flagSet _ (writeAll_flagSet _ (s := s.setShadow e none) h)

theorem dropNotice_flagSet (x : FeedNotice) (r : DropReason) (slot : Byte) (h : s.FlagSet b) :
    (s.dropNotice x r slot).FlagSet b := report_flagSet _ (cause_flagSet _ _ h)

theorem noticeReport_flagSet (j : StoreId) (h : s.FlagSet b) : (s.noticeReport j).FlagSet b := by
  rcases noticeReport_cases j s with ⟨-, e⟩ | ⟨-, e⟩ | ⟨x, -, e⟩ <;> rw [e]
  · exact h
  · exact h
  · exact dropNotice_flagSet _ _ _ (s := s.setNotice j .free) h

theorem afterFreeing_flagSet (src : Source) (why : Closing) (h : s.FlagSet b) : (s.afterFreeing src why).FlagSet b := by
  rcases afterFreeing_cases src why s with ⟨-, k⟩ | ⟨e, -, -, k⟩ | ⟨j, -, -, k⟩ <;> rw [k]
  · exact h
  · exact retireItem_flagSet _ _ h
  · exact noticeReport_flagSet _ h

theorem endRepetition_flagSet (i : LaneId) (h : s.FlagSet b) : (s.endRepetition i).FlagSet b := by
  unfold endRepetition
  split
  · exact h
  · split
    · exact h
    · exact afterFreeing_flagSet _ _ ((dropLane_frame i s).flagSet h)

theorem closeItem_flagSet (why : Closing) (e : ShadowId) (h : s.FlagSet b) : (s.closeItem why e).FlagSet b := by
  unfold closeItem
  split
  · exact h
  · exact (closeLanes_frame why _ (s.setShadow e _)).flagSet h

theorem settleNotice_flagSet (j : StoreId) (had : Bool) (h : s.FlagSet b) : (s.settleNotice j had).FlagSet b :=
  .ite (noticeReport_flagSet j h) h

/-! ## The item sweep -/

theorem writesThenReport_flagSet (ws : List (Nat × List Byte)) (e : LogEvent) (h : s.FlagSet b) :
    (s.writesThenReport ws e).FlagSet b := by
  have writes := writeAll_flagSet ws h
  unfold writesThenReport
  split
  · next eq => exact report_flagSet e (writes.of_eq eq)
  · next eq => exact (writes.of_eq eq :)

theorem rejectItem_flagSet (slot : SlotId) (r : ItemRecord) (why : RejectReason) (clamped : Bool) (h : s.FlagSet b) :
    (s.rejectItem slot r why clamped).FlagSet b :=
  writesThenReport_flagSet _ _ (s := (s.causeIf _ _ _).setNote slot .none) (causeIf_flagSet clamped _ _ h)

theorem deferItem_flagSet (slot : SlotId) (r : ItemRecord) (note : Note) (h : s.FlagSet b) :
    (s.deferItem slot r note).FlagSet b := by
  have noted := writeArea_flagSet (itemOffset slot + 30) [note.code] h
  unfold deferItem
  split
  · next eq => exact (noted.of_eq eq :)
  · next s1 eq =>
    replace noted := noted.of_eq eq
    exact .ite (s := s1) noted (report_flagSet _ noted)

theorem createItem_flagSet (e : ShadowId) (slot : SlotId) (r : ItemRecord) (kind : ItemKind) (plans : List LanePlan)
    (h : s.FlagSet b) : (s.createItem e slot r kind plans).FlagSet b :=
  (foldl_laneFrame (fun s _ => createLane_frame _ s) plans (s.setShadow e _)).flagSet h

theorem admitItem_flagSet (slot : SlotId) (r : ItemRecord) (kind : ItemKind) (plans : List LanePlan) (clamped : Bool)
    (h : s.FlagSet b) : (s.admitItem slot r kind plans clamped).FlagSet b := by
  unfold admitItem
  split
  · exact h
  · exact writesThenReport_flagSet _ _ (s := (State.createItem _ slot r kind plans _).setNote slot .none)
      (createItem_flagSet _ _ _ _ _ (causeIf_flagSet clamped _ _ h))

theorem visitPosted_flagSet (slot : SlotId) (r : ItemRecord) (h : s.FlagSet b) : (s.visitPosted slot r).FlagSet b := by
  unfold visitPosted
  split
  · exact rejectItem_flagSet _ _ _ _ h
  · exact deferItem_flagSet _ _ _ h
  · exact admitItem_flagSet _ _ _ _ _ h

theorem amendItem_flagSet (e : ShadowId) (slot : SlotId) (r : ItemRecord) (h : s.FlagSet b) :
    (s.amendItem e slot r).2.FlagSet b := by
  unfold amendItem
  split
  · exact h
  · split
    · exact h
    · dsimp only
      split
      · exact causeIf_flagSet _ _ _ h
      · have amended := fun (plans : List AmendPlan) (t : State) (k : t.FlagSet b) =>
          (foldl_laneFrame (f := fun s p => s.amendLane r.amendClass p) (fun _ _ => rfl) plans t).flagSet k
        dsimp only
        split
        · exact amended _ _ (causeIf_flagSet _ _ _ h)
        · exact amended _ _ (causeIf_flagSet _ _ _ h)

theorem requestAction_flagSet (e : ShadowId) (sh : Shadow) (slot : SlotId) (r : ItemRecord) (h : s.FlagSet b) :
    (s.requestAction e sh slot r).2.FlagSet b := by
  unfold requestAction
  split
  · exact h
  · split
    · exact closeItem_flagSet .withdrawn e h
    · exact amendItem_flagSet e slot r h
    · exact h

theorem takeRequest_flagSet (e : ShadowId) (number : Byte) (o : ItemOutcome) (h : s.FlagSet b) :
    (s.takeRequest e number o).FlagSet b := by
  unfold takeRequest
  split <;> exact h

theorem itemRequest_flagSet (e : ShadowId) (sh : Shadow) (slot : SlotId) (r : ItemRecord) (h : s.FlagSet b) :
    (s.itemRequest e sh slot r).2.FlagSet b := by
  unfold itemRequest
  split
  · exact h
  · exact writeAll_flagSet _ (takeRequest_flagSet _ _ _ (requestAction_flagSet e sh slot r h))

theorem checkExpiry_flagSet (e : ShadowId) (sh : Shadow) (h : s.FlagSet b) : (s.checkExpiry e sh).FlagSet b :=
  .ite (closeItem_flagSet .expired e h) h

theorem writeBack_flagSet (e : ShadowId) (slot : SlotId) (h : s.FlagSet b) : (s.writeBack e slot).FlagSet b := by
  unfold writeBack
  split
  · exact h
  · exact writeArea_flagSet _ _ h

theorem settleItem_flagSet (e : ShadowId) (had : Bool) (h : s.FlagSet b) : (s.settleItem e had).FlagSet b := by
  unfold settleItem
  split
  · split
    · exact h
    · exact retireItem_flagSet _ _ h
  · exact h

theorem visitActive_flagSet (e : ShadowId) (sh : Shadow) (slot : SlotId) (r : ItemRecord) (h : s.FlagSet b) :
    (s.visitActive e sh slot r).FlagSet b := by
  have request := itemRequest_flagSet e sh slot r h
  refine settleItem_flagSet e _ ?_
  split
  · next eq => exact (request.of_eq eq :)
  · next eq => exact writeBack_flagSet e slot (checkExpiry_flagSet e sh (request.of_eq eq))

theorem orphanItem_flagSet (slot : SlotId) (r : ItemRecord) (h : s.FlagSet b) : (s.orphanItem slot r).FlagSet b :=
  writesThenReport_flagSet _ _ (s := s.setNote slot .none) h

theorem disownItem_flagSet (e : ShadowId) (slot : SlotId) (r : ItemRecord) (h : s.FlagSet b) :
    (s.disownItem e slot r).FlagSet b := by
  refine settleItem_flagSet e _ (closeItem_flagSet .disowned e ?_)
  split <;> exact h

theorem visitRecord_flagSet (slot : SlotId) (r : ItemRecord) (h : s.FlagSet b) : (s.visitRecord slot r).FlagSet b := by
  unfold visitRecord
  split
  · split
    · exact visitPosted_flagSet slot r h
    · exact .ite (orphanItem_flagSet slot r h) h
  · split
    · exact h
    · exact .ite (visitActive_flagSet _ _ slot r h) (disownItem_flagSet _ slot r h)

theorem visitStep_flagSet (h : s.FlagSet b) : s.visitStep.FlagSet b := by
  have read := readArea_flagSet (itemOffset s.sweep.position) Config.itemSize h
  unfold visitStep
  split
  · unfold visit
    split
    · next eq => exact (read.of_eq eq :)
    · next eq => exact visitRecord_flagSet _ _ (read.of_eq eq :)
  · exact h

/-! ## Announcements -/

theorem endGroup_flagSet (g : AnnId → Bool) (why : EndReason) (h : s.FlagSet b) : (s.endGroup g why).FlagSet b :=
  reportAll_flagSet _ (((freeGroup_frame g s).trans (endOnStreams_frame g _ _)).flagSet h)

theorem renew_flagSet (e : AnnId) (duration : Nat) (h : s.FlagSet b) : (s.renew e duration).FlagSet b := by
  unfold renew
  split <;> exact h

theorem beginOutcome_flagSet (e : AnnId) (v : BeginValues) (sent : Nat) (records : List LogEvent) (h : s.FlagSet b) :
    (s.beginOutcome e v sent records).2.FlagSet b := by
  unfold beginOutcome
  split
  · exact report_flagSet _ (s := s.setAnnouncement e none) h
  · exact reportAll_flagSet _ h

theorem beginAnnouncement_flagSet (v : BeginValues) (sent : Nat) (levelOn : StreamId → Nat) (h : s.FlagSet b) :
    (s.beginAnnouncement v sent levelOn).2.FlagSet b := by
  unfold beginAnnouncement
  split
  · exact renew_flagSet _ _ h
  · split
    · exact report_flagSet _ h
    · next e _ =>
      exact beginOutcome_flagSet e v sent _ ((offerStreams_frame e levelOn _ (s.setAnnouncement e _)).flagSet h)

theorem boardBegin_flagSet (r : RequestId) (q : AnnRequest) (h : s.FlagSet b) : (s.boardBegin r q).2.FlagSet b := by
  unfold boardBegin
  split
  · exact report_flagSet _ h
  · exact beginAnnouncement_flagSet _ _ _ (causeIf_flagSet _ _ _ h)

theorem feedBegin_flagSet (number : Byte) (level : Nat) (kind : BitVec 4) (duration : Nat) (matched : BitVec 4)
    (h : s.FlagSet b) : (s.feedBegin number level kind duration matched).2.FlagSet b := by
  unfold feedBegin
  split
  · exact report_flagSet _ h
  · exact beginAnnouncement_flagSet _ _ _ (causeIf_flagSet _ _ _ h)

theorem endAnnouncement_flagSet (o : Origin) (number : Byte) (h : s.FlagSet b) :
    (s.endAnnouncement o number).2.FlagSet b := by
  unfold endAnnouncement
  split
  · exact h
  · exact endGroup_flagSet _ _ h

theorem settleHolds_flagSet (h : s.FlagSet b) : s.settleHolds.FlagSet b :=
  .ite (endGroup_flagSet _ _ h) h

theorem carryOut_flagSet (r : RequestId) (q : AnnRequest) (h : s.FlagSet b) : (s.carryOut r q).2.FlagSet b := by
  unfold carryOut
  split
  · exact boardBegin_flagSet r q h
  · exact endAnnouncement_flagSet .board q.number h
  · exact endGroup_flagSet _ _ h
  · exact h

theorem answerRequest_flagSet (r : RequestId) (o : AnnOwed) (h : s.FlagSet b) : (s.answerRequest r o).FlagSet b := by
  have writes := writeAll_flagSet [(requestOffset r + 3, [o.outcome.code]), (requestOffset r + 1, [o.number])] h
  unfold answerRequest
  split
  · next eq => exact (writes.of_eq eq :)
  · next eq => exact (writes.of_eq eq :)

theorem pollRecord_flagSet (r : RequestId) (q : AnnRequest) (h : s.FlagSet b) : (s.pollRecord r q).FlagSet b := by
  have carried := carryOut_flagSet r q (s := s.setAnnTaken r q.request) h
  unfold pollRecord
  split
  · exact answerRequest_flagSet r _ h
  · split
    · exact h
    · dsimp only
      split
      · exact answerRequest_flagSet r _ carried
      · exact carried

theorem pollRecords_flagSet (stopped : State → Bool) (bs : List Byte) (rs : List RequestId) (h : s.FlagSet b) :
    (s.pollRecords stopped bs rs).FlagSet b := by
  induction rs generalizing s with
  | nil => exact h
  | cons r rs ih =>
    unfold pollRecords
    split
    · exact ih (pollRecord_flagSet r _ h)
    · exact h

theorem announcementPoll_flagSet (stopped : State → Bool) (h : s.FlagSet b) :
    (s.announcementPoll stopped).FlagSet b := by
  have read := readArea_flagSet Config.offRequests 128 (s := s.clearAnnDue) h
  unfold announcementPoll
  split
  · next eq => exact (read.of_eq eq :)
  · next eq => exact pollRecords_flagSet stopped _ _ (read.of_eq eq)

theorem unlessStopped_flagSet {f : State → State} (stopped : State → Bool)
    (keeps : ∀ s : State, s.FlagSet b → (f s).FlagSet b) (h : s.FlagSet b) : (s.unlessStopped stopped f).FlagSet b :=
  .ite h (keeps s h)

theorem startAfter_flagSet {settle action : State → State}
    (settleKeeps : ∀ s : State, s.FlagSet b → (settle s).FlagSet b)
    (actionKeeps : ∀ s : State, s.FlagSet b → (action s).FlagSet b) (h : s.FlagSet b) :
    (s.startAfter settle action).FlagSet b := by
  rcases startAfter_cases settle action s with ⟨-, e⟩ | ⟨-, -, e⟩ | ⟨-, -, e⟩ <;> rw [e]
  · exact h
  · exact actionKeeps _ (settleKeeps s h)
  · exact settleKeeps s h

theorem announcementStep_flagSet (stopped : State → Bool) (h : s.FlagSet b) :
    (s.announcementStep stopped).FlagSet b :=
  .ite (startAfter_flagSet (fun _ => settleHolds_flagSet)
    (fun _ => unlessStopped_flagSet stopped fun _ => announcementPoll_flagSet stopped) h) h

/-! ## Ticks and the station clock -/

theorem secondTick_flagSet (h : s.FlagSet b) : s.secondTick.FlagSet b := by
  have clock : s.clearSecond.advanceClock.FlagSet b := by
    unfold advanceClock
    split <;> exact h
  unfold secondTick
  dsimp only
  split <;> exact clock

theorem boardOffer_flagSet (t : Word) (number : Byte) (h : s.FlagSet b) : (s.boardOffer t number).2.FlagSet b := by
  unfold boardOffer
  split
  · exact report_flagSet _ (s := s.setClock .board t) h
  · exact h

theorem answerClock_flagSet (o : ClockOwed) (h : s.FlagSet b) : (s.answerClock o).FlagSet b := by
  have writes := writeAll_flagSet
    [(Config.offClockSet + 2, [o.outcome.code]), (Config.offClockSet + 1, [o.number])] h
  unfold answerClock
  split
  · next eq => exact (writes.of_eq eq :)
  · next eq => exact (writes.of_eq eq :)

theorem clockRecord_flagSet (bs : List Byte) (h : s.FlagSet b) : (s.clockRecord bs).FlagSet b := by
  have offered := boardOffer_flagSet (le32At bs 4) (byteAt bs 0) (s := s.setClockTaken (byteAt bs 0)) h
  unfold clockRecord
  split
  · exact answerClock_flagSet _ h
  · split
    · exact h
    · dsimp only
      split
      · exact answerClock_flagSet _ offered
      · exact offered

theorem clockStep_flagSet (stopped : State → Bool) (h : s.FlagSet b) : (s.clockStep stopped).FlagSet b := by
  have read := readArea_flagSet Config.offClockSet 16 (s := s.clearClockDue) h
  unfold clockStep
  split
  · unfold clockPoll
    split
    · next eq => exact (read.of_eq eq :)
    · next eq => exact unlessStopped_flagSet stopped (fun _ => clockRecord_flagSet _) (read.of_eq eq)
  · exact h

theorem feedOffer_flagSet (t : Word) (offset : Byte) (h : s.FlagSet b) : (s.feedOffer t offset).FlagSet b := by
  unfold feedOffer
  split
  · have set := fun x => causeIf_flagSet x .valueClamp nowhere
      (s := (s.setClock .feed t).setOffset (clampOffset offset)) h
    dsimp only
    split
    · exact report_flagSet _ (set _)
    · exact set _
  · exact h

/-! ## The feed receiver -/

theorem loseFeed_flagSet (h : s.FlagSet b) : s.loseFeed.FlagSet b :=
  endGroup_flagSet _ .feedLost (report_flagSet s.feedLostEvent (s := s.setFeed .lost) h)

theorem settleLoss_flagSet (h : s.FlagSet b) : s.settleLoss.FlagSet b :=
  .ite (loseFeed_flagSet h) h

theorem badCharacter_flagSet (h : s.FlagSet b) : s.badCharacter.FlagSet b :=
  cause_flagSet _ _ (s := s.setReceiver .hunt 0 []) h

theorem discardMessage_flagSet (bs : List Byte) (h : s.FlagSet b) : (s.discardMessage bs).FlagSet b :=
  cause_flagSet _ _ (s := s.setReceiver .hunt s.receiver.matched []) h

theorem feedAlive_flagSet (type : Byte) (h : s.FlagSet b) : (s.feedAlive type).FlagSet b := by
  unfold feedAlive
  dsimp only
  split
  · exact h
  · exact report_flagSet _ (s := setFeed .live _) h
  · exact report_flagSet _ (s := moveNames .kept .current _) h

theorem toReady_flagSet (msg : FeedMessage) (h : s.FlagSet b) : (s.toReady msg).FlagSet b := by
  unfold toReady
  split
  · exact h
  · exact cause_flagSet _ _ h

theorem judge_flagSet (bs : List Byte) (h : s.FlagSet b) : (s.judge bs).FlagSet b :=
  .ite (toReady_flagSet _ (feedAlive_flagSet _ (s := s.settleLoss.setReceiver .hunt s.receiver.matched [])
    (settleLoss_flagSet h))) (discardMessage_flagSet bs h)

theorem collectByte_flagSet (x : Byte) (h : s.FlagSet b) : (s.collectByte x).FlagSet b :=
  .ite (discardMessage_flagSet _ h) (.ite (judge_flagSet _ h) h)

theorem goodCharacter_flagSet (data : Byte) (mark : Bool) (h : s.FlagSet b) : (s.goodCharacter data mark).FlagSet b := by
  unfold goodCharacter
  split
  · exact causeIf_flagSet _ .feedMsg _ h
  · split
    · exact collectByte_flagSet data h
    · exact h
    · exact h

/-! ## The message engine and the notice store -/

theorem releaseNotice_flagSet (j : StoreId) (h : s.FlagSet b) : (s.releaseNotice j).FlagSet b :=
  settleNotice_flagSet j _ ((closeNotice_frame j (s.setNotice j .releasing)).flagSet h)

theorem storeNotice_flagSet (j : StoreId) (x : FeedNotice) (matched : BitVec 4) (h : s.FlagSet b) :
    (s.storeNotice j x matched).FlagSet b := by
  have asked := (askLanes_frame j x matched (s.setNotice j (.held x))).flagSet h
  unfold storeNotice
  dsimp only
  split
  · exact dropNotice_flagSet x .noLane _ (s := setNotice j _ _) asked
  · exact asked

theorem replaceNotice_flagSet (j : StoreId) (x : FeedNotice) (matched : BitVec 4) (h : s.FlagSet b) :
    (s.replaceNotice j x matched).FlagSet b := by
  unfold replaceNotice
  split
  · exact storeNotice_flagSet j x matched (report_flagSet _ ((closeNotice_frame j s).flagSet h))
  · exact h
  · exact h

theorem newNotice_flagSet (x : FeedNotice) (matched : BitVec 4) (h : s.FlagSet b) :
    (s.newNotice x matched).FlagSet b := by
  unfold newNotice
  split
  · exact storeNotice_flagSet _ x matched h
  · split
    · exact dropNotice_flagSet x .storeFull 0xFF h
    · exact .ite (replaceNotice_flagSet _ x matched h) (dropNotice_flagSet x .storeFull 0xFF h)

theorem updateNotice_flagSet (j : StoreId) (x : FeedNotice) (matched : BitVec 4) (h : s.FlagSet b) :
    (s.updateNotice j x matched).FlagSet b := by
  unfold updateNotice
  split
  · exact settleNotice_flagSet j _ ((askLanes_frame j x matched _).flagSet
      (.ite h ((reRateNotices_frame j x (s.setNotice j (.held x))).flagSet h)))
  · exact h
  · exact h

theorem noticeMessage_flagSet (matched : BitVec 4) (body : List Byte) (h : s.FlagSet b) :
    (s.noticeMessage matched body).FlagSet b := by
  unfold noticeMessage
  split
  · split
    · exact h
    · exact releaseNotice_flagSet _ h
  · split
    · exact updateNotice_flagSet _ _ matched h
    · exact newNotice_flagSet _ matched h

theorem actOn_flagSet (msg : FeedMessage) (h : s.FlagSet b) : (s.actOn msg).FlagSet b := by
  unfold actOn
  split
  · exact h
  · exact feedBegin_flagSet _ _ _ _ _ h
  · exact endAnnouncement_flagSet .feed _ h
  · exact noticeMessage_flagSet _ _ h
  · exact feedOffer_flagSet _ _ h
  · exact h

theorem settleLives_flagSet (h : s.FlagSet b) : s.settleLives.FlagSet b :=
  .ite (List.foldlRecOn (motive := fun t : State => t.FlagSet b) s.lifeOver _ h fun _ k j _ =>
    releaseNotice_flagSet j k) h

theorem settleFor_flagSet (type : Byte) (h : s.FlagSet b) : (s.settleFor type).FlagSet b := by
  unfold settleFor
  split
  · exact settleHolds_flagSet h
  · exact settleHolds_flagSet h
  · exact settleLives_flagSet h
  · exact h

theorem messageStep_flagSet (stopped : State → Bool) (h : s.FlagSet b) : (s.messageStep stopped).FlagSet b := by
  unfold messageStep
  split
  · exact h
  · next msg _ =>
    exact startAfter_flagSet (fun _ => settleFor_flagSet msg.type)
      (fun _ => unlessStopped_flagSet stopped fun _ => actOn_flagSet msg) h

/-! ## Slots, starts and fetches -/

theorem openSlot_flagSet (n : StreamId) (h : s.FlagSet b) : (s.openSlot n).FlagSet b := by
  have load : (s.loadSlot n).FlagSet b := by
    unfold loadSlot
    split
    · exact h
    · exact cause_flagSet _ _ (s := s.setUnit n _) h
    · exact cause_flagSet _ _ (s := s.setUnit n _) h
  exact load

theorem partFormed_flagSet (n : StreamId) (h : s.FlagSet b) : (s.partFormed n).FlagSet b := by
  unfold partFormed
  split
  · exact h
  · split
    · exact h
    · split
      · exact h
      · exact h
      · exact .ite (endRepetition_flagSet _ h) h

theorem formStaged_flagSet (n : StreamId) (h : s.FlagSet b) : (s.formStaged n).FlagSet b := by
  unfold formStaged
  split
  · exact h
  · exact partFormed_flagSet n (s := s.setUnit n _) h

theorem addSlip_flagSet (src : Source) (h : s.FlagSet b) : (s.addSlip src).FlagSet b := by
  unfold addSlip
  split
  · exact h
  · split
    · exact h
    · exact h

theorem selected_flagSet (i : LaneId) (l : Lane) (h : s.FlagSet b) : (s.selected i l).FlagSet b :=
  .ite (addSlip_flagSet l.source (s := s.setLane i _) h) h

theorem countStart_flagSet (i : LaneId) (l : Lane) (h : s.FlagSet b) : (s.countStart i l).FlagSet b := by
  unfold countStart
  dsimp only
  split
  · exact h
  · split
    · exact h
    · exact h

theorem testLimit_flagSet (i : LaneId) (h : s.FlagSet b) : (s.testLimit i).FlagSet b := by
  unfold testLimit
  split
  · exact h
  · split
    · exact h
    · exact h

theorem stage_flagSet (n : StreamId) (i : LaneId) (parts : List StagedPart) (h : s.FlagSet b) :
    (s.stage n i parts).FlagSet b := by
  unfold stage
  split
  · exact endRepetition_flagSet i (s := (s.endFetch n).formFill n) h
  · dsimp only
    split
    · exact h
    · exact .ite (endRepetition_flagSet i (s := s.setUnit n _) h) h

theorem completeStart_flagSet (n : StreamId) (i : LaneId) (c : Content) (h : s.FlagSet b) :
    (s.completeStart n i c).FlagSet b := by
  unfold completeStart
  split
  · exact h
  · exact stage_flagSet n i _ (causeIf_flagSet _ _ _ (causeIf_flagSet _ _ _
      (testLimit_flagSet i (countStart_flagSet i _ h))))

theorem restoreLane_flagSet (f : Fetch) (h : s.FlagSet b) : (s.restoreLane f).FlagSet b := by
  unfold restoreLane
  split
  · exact h
  · unfold restoreSlips
    split
    · exact h
    · split
      · exact h
      · exact h

theorem slipLane_flagSet (i : LaneId) (h : s.FlagSet b) : (s.slipLane i).FlagSet b := by
  unfold slipLane
  split
  · exact h
  · exact addSlip_flagSet _ h

theorem fetchFault_flagSet (c : Condition) (n : StreamId) (f : Fetch) (h : s.FlagSet b) :
    (s.fetchFault c n f).FlagSet b := by
  have caused := cause_flagSet c (s.fetchPlace n f.lane) h
  have lane : (if s.halts c then (s.cause c (s.fetchPlace n f.lane)).restoreLane f
      else (s.cause c (s.fetchPlace n f.lane)).slipLane f.lane).FlagSet b :=
    .ite (restoreLane_flagSet f caused) (slipLane_flagSet f.lane caused)
  exact endRepetition_flagSet f.lane (s := (State.endFetch n _).formFill n) lane

theorem startLane_flagSet (n : StreamId) (i : LaneId) (l : Lane) (h : s.FlagSet b) : (s.startLane n i l).FlagSet b := by
  have sel := selected_flagSet i l h
  unfold startLane
  dsimp only
  split
  · split
    · exact completeStart_flagSet n i _ sel
    · exact endRepetition_flagSet i (s := (s.selected i l).formFill n) sel
    · exact endRepetition_flagSet i (s := (s.selected i l).formFill n) sel
  · split
    · exact endRepetition_flagSet i (s := (s.selected i l).formFill n) sel
    · split
      · exact completeStart_flagSet n i _ sel
      · exact .ite sel (fetchFault_flagSet .fetchWindow n _ sel)

theorem startOrFill_flagSet (n : StreamId) (h : s.FlagSet b) : (s.startOrFill n).FlagSet b := by
  unfold startOrFill
  split
  · exact startLane_flagSet n _ _ h
  · exact h

theorem decideSlot_flagSet (n : StreamId) (h : s.FlagSet b) : (s.decideSlot n).FlagSet b := by
  replace h : (s.clearAsked n).FlagSet b := h
  unfold decideSlot
  dsimp only
  split
  · split
    · exact h
    · split
      · exact formStaged_flagSet n h
      · split
        · exact h
        · exact startOrFill_flagSet n h
  · split
    · split
      · exact h
      · exact formStaged_flagSet n h
    · exact h

theorem finishFetch_flagSet (n : StreamId) (f : Fetch) (h : s.FlagSet b) : (s.finishFetch n f).FlagSet b := by
  unfold finishFetch
  split
  · exact h
  · next sh _ =>
    have read := readPayload_flagSet sh.address (fetchLength sh.kind sh.length) h
    split
    · next eq => exact fetchFault_flagSet .fetchBus n f (read.of_eq eq)
    · next eq => exact completeStart_flagSet n f.lane _ (read.of_eq eq)

/-! ## The window check -/

theorem checkRecord_flagSet (bs : List Byte) (h : s.FlagSet b) : (s.checkRecord bs).FlagSet b := by
  unfold checkRecord
  split
  · exact h
  · unfold answerCheck
    have writes := fun ws => writeAll_flagSet ws h
    dsimp only
    split
    · next eq => exact ((writes _).of_eq eq :)
    · next eq => exact ((writes _).of_eq eq :)

theorem windowStep_flagSet (stopped : State → Bool) (h : s.FlagSet b) : (s.windowStep stopped).FlagSet b := by
  have read := readArea_flagSet Config.offWindowCheck 16 (s := s.clearWindowDue) h
  unfold windowStep
  split
  · unfold windowPoll
    split
    · next eq => exact (read.of_eq eq :)
    · next eq => exact unlessStopped_flagSet stopped (fun _ => checkRecord_flagSet _) (read.of_eq eq)
  · exact h

/-! ## START, RELOAD, STOP and the entry to HELD -/

theorem setPart_flagSet (p : PartState) (h : s.FlagSet b) : (s.setPart p).FlagSet b := h

theorem failStart_flagSet (e : ConfigError) (h : s.FlagSet b) : (s.failStart e).FlagSet b := h

theorem finishStart_flagSet (x : Header) (h : s.FlagSet b) : (s.finishStart x).FlagSet b := by
  have logged := append_flagSet (startedEvent x) h
  unfold finishStart
  split
  · next eq => exact failStart_flagSet _ (logged.of_eq eq)
  · next s1 eq =>
    have status := writeAll_flagSet (s1.startUnits x).statusWrites (logged.of_eq eq)
    split
    · next eq => exact failStart_flagSet _ (status.of_eq eq)
    · next eq => exact (status.of_eq eq :)

theorem runStart_flagSet (x : Header) (h : s.FlagSet b) : (s.runStart x).FlagSet b := by
  have position := writeArea_flagSet Config.offWritePosition (le16 ((s.takeReadPosition x).writePosition.setWidth 16))
    (s := s.takeReadPosition x) h
  unfold runStart
  dsimp only
  split
  · next eq => exact failStart_flagSet _ (position.of_eq eq)
  · next s1 eq => exact finishStart_flagSet x (s := s1.emptyTables x) (position.of_eq eq :)

theorem startCompletion_flagSet (h : s.FlagSet b) : s.startCompletion.FlagSet b := by
  have header := readAll_flagSet headerReads h
  unfold startCompletion
  split
  · next eq => exact failStart_flagSet _ (header.of_eq eq)
  · next bss s1 eq =>
    have taken : (s1.takeNumbers (headerOf bss)).FlagSet b := (header.of_eq eq :)
    exact .ite (runStart_flagSet _ taken) (failStart_flagSet _ taken)

theorem reloadReplace_flagSet (h : s.FlagSet b) : s.reloadReplace.FlagSet b := by
  have reads := readAll_flagSet reloadReads h
  unfold reloadReplace
  split
  · next eq => exact (reads.of_eq eq :)
  · next eq => exact (reads.of_eq eq :)

theorem workStep_flagSet (w : Work) (stopped : State → Bool) (h : s.FlagSet b) : (s.workStep w stopped).FlagSet b := by
  cases w with
  | visit => exact visitStep_flagSet h
  | announcements => exact announcementStep_flagSet stopped h
  | clockSet => exact clockStep_flagSet stopped h
  | windowCheck => exact windowStep_flagSet stopped h
  | message => exact messageStep_flagSet stopped h

theorem takeStop_flagSet (u : Option UnderWay) (h : s.FlagSet b) : (s.takeStop u).FlagSet b := by
  cases u with
  | none => exact h
  | some u => exact workStep_flagSet u.work _ (s := s.beginBus _) h

theorem refuseStop_flagSet (u : Option UnderWay) (h : s.FlagSet b) : (s.refuseStop u).FlagSet b := by
  cases u with
  | none => exact h
  | some u => exact h

theorem retireAll_flagSet (items : List (ShadowId × Shadow)) (k : Nat) (h : s.FlagSet b) :
    (s.retireAll items k).2.2.FlagSet b := by
  induction items generalizing s k with
  | nil => exact h
  | cons x rest ih =>
    have retired := writeAll_flagSet (retireWrites x.2 .stopped) h
    unfold retireAll
    split
    · next eq => exact (retired.of_eq eq :)
    · next s1 eq =>
      have logged := append_flagSet (retiredEvent x.2.slot x.2.desk .stopped) (retired.of_eq eq)
      split
      · next eq => exact (logged.of_eq eq :)
      · next eq => exact ih _ (logged.of_eq eq)

theorem stopWrites_flagSet (retired : Nat) (h : s.FlagSet b) : (s.stopWrites retired).FlagSet b := by
  have logged := append_flagSet (s.stoppedEvent retired) h
  unfold stopWrites
  split
  · next eq => exact (logged.of_eq eq :)
  · next eq => exact writeAll_flagSet _ (logged.of_eq eq)

theorem teardown_flagSet (h : s.FlagSet b) : s.teardown.FlagSet b := by
  have retired : (if s.control.stopBerr then (false, 0, s) else s.retireAll s.heldItems 0).2.2.FlagSet b := by
    split
    · exact h
    · exact retireAll_flagSet _ 0 h
  unfold teardown
  generalize (if s.control.stopBerr then (false, 0, s) else s.retireAll s.heldItems 0) = r at retired ⊢
  replace retired : r.2.2.emptyScheduler.FlagSet b := retired
  exact setPart_flagSet .stopped (.ite (stopWrites_flagSet _ retired) retired)

theorem recordFault_flagSet (c : Capture) (h : s.FlagSet b) : (s.recordFault c).FlagSet b :=
  .ite h (appendAt_flagSet _ _ _ (writeArea_flagSet _ _ h))

theorem enterHeld_flagSet (c : Capture) (h : s.FlagSet b) : (s.enterHeld c).FlagSet b :=
  recordFault_flagSet c (s := s.becomeHeld c) h

end State

/-! ## The commands -/

open State

variable {s t : State} {b : Nat}

/-- A flag of the state that a command answers is one of the state that it comes to. -/
theorem next_flagSet {u : State} (run : (.next u : Outcome) = .next t) (h : u.FlagSet b) : t.FlagSet b := by
  cases run
  exact h

/-- COND_WRITE clears the flags written as 1 and leaves the others (R153). -/
theorem execCondWrite_flags (value : Word) (run : execCondWrite value s = .next t) :
    t.conds.flags = s.conds.flags &&& ~~~(value.setWidth 13) := by
  cases run
  rfl

theorem execCondWrite_flagSet {value : Word} (run : execCondWrite value s = .next t) (zero : value.getLsbD b = false)
    (h : s.FlagSet b) : t.FlagSet b := by
  have h : s.conds.flags.getLsbD b = true := h
  have lt : b < 13 := BitVec.lt_of_getLsbD h
  rw [FlagSet, execCondWrite_flags value run]
  simp [h, lt, zero]

/-- A set flag stays set in every command but the resets and a COND_WRITE that writes 1 to it (R153). -/
theorem exec_flagSet {c : Instr} (run : exec c s = .next t) (noReset : c.isReset = false)
    (noWrite : ∀ value, c = .condWrite value → value.getLsbD b = false) (h : s.FlagSet b) : t.FlagSet b := by
  cases c with
  | reset => cases noReset
  | rstN => cases noReset
  | condWrite value => exact execCondWrite_flagSet run (noWrite value rfl) h
  | ack => exact next_flagSet run h
  | commandRefused value => exact next_flagSet run h
  | registerWriteIgnored offset value => exact next_flagSet run h
  | bitTime n => exact next_flagSet run h
  | start => exact next_flagSet run (.ite h h)
  | resume => exact next_flagSet run (.ite h h)
  | reload => exact next_flagSet run (.ite h h)
  | baseWrite value => exact next_flagSet run (.ite h h)
  | streamOff n => exact next_flagSet run (.ite h h)
  | tick100ms => exact next_flagSet run (.ite (.ite h h) h)
  | tick1s => exact next_flagSet run (.ite (secondTick_flagSet h) h)
  | slotOpen n => exact next_flagSet run (.ite (openSlot_flagSet n h) h)
  | stop u => exact next_flagSet run (.ite (takeStop_flagSet u h) (refuseStop_flagSet u h))
  | noticeLifeExpired => exact next_flagSet run (settleLives_flagSet h)
  | sweepVisit env => exact next_flagSet run (withBus_flagSet env (fun _ => visitStep_flagSet) h)
  | announcementPoll env => exact next_flagSet run (withBus_flagSet env (fun _ => announcementStep_flagSet noStop) h)
  | holdExpired env => exact next_flagSet run (withBus_flagSet env (fun _ => settleHolds_flagSet) h)
  | clockSetPoll env => exact next_flagSet run (withBus_flagSet env (fun _ => clockStep_flagSet noStop) h)
  | windowCheckPoll env => exact next_flagSet run (withBus_flagSet env (fun _ => windowStep_flagSet noStop) h)
  | feedLost env => exact next_flagSet run (withBus_flagSet env (fun _ => settleLoss_flagSet) h)
  | feedMessageAction env => exact next_flagSet run (withBus_flagSet env (fun _ => messageStep_flagSet noStop) h)
  | startCompletion env =>
    exact next_flagSet run (withBus_flagSet env (fun s h => .ite (startCompletion_flagSet h) h) h)
  | stopTeardown env => exact next_flagSet run (withBus_flagSet env (fun s h => .ite (teardown_flagSet h) h) h)
  | reloadReplace env => exact next_flagSet run (withBus_flagSet env (fun s h => .ite (reloadReplace_flagSet h) h) h)
  | statusWrite env =>
    exact next_flagSet run (withBus_flagSet env (fun s h => .ite (writeAll_flagSet _ (s := s.clearStatusDue) h) h) h)
  | slotDecision n env => exact next_flagSet run (withBus_flagSet env (fun s h => .ite (decideSlot_flagSet n h) h) h)
  | fetchEnd n env =>
    refine next_flagSet run (withBus_flagSet env (fun s h => ?_) h)
    split
    · exact h
    · exact .ite (finishFetch_flagSet n _ h) h
  | feedCharacter data parity mark stop env =>
    exact next_flagSet run (withBus_flagSet env
      (fun s h => .ite (.ite (badCharacter_flagSet h) (goodCharacter_flagSet data mark h)) h) h)
  | enterHeld env =>
    refine next_flagSet run (withBus_flagSet env (fun s h => ?_) h)
    split
    · exact h
    · exact .ite (enterHeld_flagSet _ h) h

/-! ## The statement -/

/-- A condition's own bit is set in its mask (R152). -/
theorem Condition.getLsbD_bit (c : Condition) : c.bit.getLsbD (c.code - 1) = true := by
  cases c <;> decide

theorem State.cause_own_flagSet (c : Condition) (w : FaultWhere) (s : State) :
    (s.cause c w).FlagSet (c.code - 1) := by
  rw [FlagSet, cause_flags, BitVec.getLsbD_or, c.getLsbD_bit, Bool.or_true]

/-- A read of COND gives the flags, with 0 above them (R166). -/
theorem State.readRegister_cond (s : State) : s.readRegister 0x10 = some (s.conds.flags.setWidth 32) := rfl

theorem execCondWrite_cleared {value : Word} (run : execCondWrite value s = .next t) (one : value.getLsbD b = true) :
    t.conds.flags.getLsbD b = false := by
  rw [execCondWrite_flags value run]
  simp [one]

/-- Settles O6: a flag is lost in no command but those that R153 names (`exec_flagSet`); what a condition and a write
to COND do to the flags gives the rest, the order of the two included. -/
theorem condFlagsAreSticky : Obligations.CondFlagsAreSticky := by
  refine ⟨fun c w s => ⟨rfl, cause_own_flagSet c w s, rfl⟩, ?lost, fun _ _ => rfl, ?reserved,
    fun c w value s one => ⟨⟨_, rfl, execCondWrite_cleared rfl one⟩, ⟨_, rfl, cause_own_flagSet c w _⟩⟩⟩
  case lost =>
    intro c s t i run was lost
    by_contra other
    obtain ⟨noReset, noWrite⟩ := not_or.1 other
    have stays : t.FlagSet i := exec_flagSet run (by simpa using noReset)
      (fun value write => by simpa using fun one => noWrite ⟨value, write, one⟩) was
    exact Bool.false_ne_true (lost.symm.trans stays)
  case reserved =>
    intro s i reserved
    rw [readRegister_cond, Option.getD_some, BitVec.getLsbD_setWidth, BitVec.getLsbD_of_ge _ _ reserved, Bool.and_false]

end Sys2Proof.Machine
end

section
/-! SUPPORT. The commands of the CMD register (R167, R169): which command a code gives, and the outcome of each as a
choice between acceptance and refusal; O3 is settled at the end. -/

namespace Sys2Proof

/-- The codes that no command has (R169). -/
theorem Instr.ofCommand_of_no_code {value : Word}
    (code : (value.setWidth 8 : Byte) = 0 ∨ 7 ≤ (value.setWidth 8 : Byte).toNat) :
    ofCommand value = .commandRefused value := by
  rcases code with zero | high
  · simp [ofCommand, zero]
  · unfold ofCommand
    split
    case h_7 => rfl
    all_goals omega

/-- R167, R169. -/
theorem Instr.ofCommand_codes (value : Word) :
    let code : Byte := value.setWidth 8
    (code = 1 → ofCommand value = .start) ∧ (code = 2 → ofCommand value = .stop none) ∧
    (code = 3 → ofCommand value = .resume) ∧ (code = 4 → ofCommand value = .reload) ∧
    (code = 5 → ofCommand value = .ack) ∧ (code = 6 → ofCommand value = .reset) ∧
    (code = 0 ∨ 7 ≤ code.toNat → ofCommand value = .commandRefused value) := by
  refine ⟨?_, ?_, ?_, ?_, ?_, ?_, ofCommand_of_no_code⟩
  all_goals
    intro code
    simp [ofCommand, code]

namespace Machine

open State

/-! ## Acceptance and refusal -/

theorem exec_start (s : State) : exec .start s =
    if s.control.part = .stopped then .next (s.accept.setPart .starting) else .next s.refuse :=
  apply_ite Host.Outcome.next _ _ _

theorem exec_resume (s : State) : exec .resume s =
    if s.control.part = .held then
      .next { s.accept.setPart .running with conds := { s.conds with haltCause := none } }
    else .next s.refuse :=
  apply_ite Host.Outcome.next _ _ _

theorem exec_reload (s : State) : exec .reload s =
    if s.control.part = .running ∧ s.control.reloading = false then .next (s.accept.setReloading true)
    else .next s.refuse :=
  apply_ite Host.Outcome.next _ _ _

theorem exec_stop (u : Option UnderWay) (s : State) : exec (.stop u) s =
    if s.control.part.onAir = true then .next (s.takeStop u) else .next (s.refuseStop u) :=
  apply_ite Host.Outcome.next _ _ _

/-- A STOP accepted clears the command-refused flag, whatever is under way (R168). -/
theorem takeStop_refused (u : Option UnderWay) (s : State) : (s.takeStop u).control.refused = false := by
  cases u <;> rfl

/-- Of the control unit a refused STOP sets the flag alone; the host's writes reach memory only (R169). -/
theorem refuseStop_control (u : Option UnderWay) (s : State) :
    (s.refuseStop u).control = { s.control with refused := true } := by
  cases u <;> rfl

/-! ## The statement -/

/-- Settles O3: each command is accepted in its part states and refused in the others, a code names its command, and
a second command waits in the queue while the first one is taken. -/
theorem commandsByPartState : Obligations.CommandsByPartState := by
  refine ⟨fun s => ⟨exec_start s, ?accepted, ?refused, exec_resume s, exec_reload s, rfl, ⟨_, rfl, rfl, rfl⟩,
    fun _ => rfl⟩, Instr.ofCommand_codes, fun _ _ _ _ => rfl⟩
  case accepted =>
    intro onAir u
    exact ⟨_, (exec_stop u s).trans (if_pos (PartState.onAir_iff.2 onAir)), (takeStop_stopping u s).1,
      takeStop_refused u s⟩
  case refused =>
    intro offAir
    have refused (u : Option UnderWay) : exec (.stop u) s = .next (s.refuseStop u) :=
      (exec_stop u s).trans (if_neg (mt PartState.onAir_iff.1 offAir))
    exact ⟨refused none, fun u => ⟨_, refused u, refuseStop_control u s⟩⟩

end Machine
end Sys2Proof
end

section
/-! SUPPORT. The register window (R166): where STAT holds its fields, and what a write to COND leaves of each flag; O4 is
settled at the end. -/

namespace Sys2Proof.Machine

/-! ## The widths of the codes -/

theorem PartState.code_lt (p : PartState) : p.code < 8 := by
  cases p <;> decide

theorem ConfigError.code_lt (e : ConfigError) : e.code < 16 := by
  cases e <;> decide

theorem Condition.code_lt (c : Condition) : c.code < 32 := by
  cases c <;> decide

theorem causeCode_lt : ∀ c : Option Condition, causeCode c < 32
  | none => by decide
  | some c => c.code_lt

namespace State

variable {s : State}

/-! ## STAT -/

/-- STAT as a number: each field times the weight of its lowest bit, and the word holds the whole sum. -/
theorem toNat_stat (s : State) : s.stat.toNat =
    s.control.part.code + 16 * s.control.interrupt.toNat + 32 * s.control.refused.toNat
      + 256 * s.control.configError.code + 65536 * causeCode s.conds.haltCause := by
  have part := s.control.part.code_lt
  have error := s.control.configError.code_lt
  have halt := causeCode_lt s.conds.haltCause
  rw [stat, BitVec.toNat_ofNat]
  cases s.control.interrupt <;> cases s.control.refused <;> simp <;> omega

/-- The `len` bits of STAT from `start` on are a quotient and a remainder of that number. -/
theorem toNat_stat_field (s : State) (start len : Nat) :
    (s.stat.extractLsb' start len).toNat = s.stat.toNat / 2 ^ start % 2 ^ len := by
  rw [BitVec.extractLsb'_toNat, Nat.shiftRight_eq_div_pow]

theorem stat_bit_iff {i : Nat} {b : Bool} : s.stat.getLsbD i = b ↔ s.stat.toNat / 2 ^ i % 2 = b.toNat := by
  rw [BitVec.getLsbD, ← Nat.toNat_testBit]
  cases s.stat.toNat.testBit i <;> cases b <;> simp

/-- The fields of STAT at the bits of R166's second table, and 0 in the bits between and above them. -/
theorem stat_fields (s : State) :
    (s.stat.extractLsb' 0 3).toNat = s.control.part.code ∧ s.stat.getLsbD 4 = s.control.interrupt ∧
    s.stat.getLsbD 5 = s.control.refused ∧ (s.stat.extractLsb' 8 4).toNat = s.control.configError.code ∧
    (s.stat.extractLsb' 16 5).toNat = causeCode s.conds.haltCause ∧
    s.stat.getLsbD 3 = false ∧ s.stat.extractLsb' 6 2 = 0 ∧ s.stat.extractLsb' 12 4 = 0 ∧
    s.stat.extractLsb' 21 11 = 0 := by
  have part := s.control.part.code_lt
  have error := s.control.configError.code_lt
  have halt := causeCode_lt s.conds.haltCause
  have interrupt := s.control.interrupt.toNat_lt
  have refused := s.control.refused.toNat_lt
  simp only [← BitVec.toNat_inj, toNat_stat_field, stat_bit_iff, toNat_stat]
  refine ⟨?_, ?_, ?_, ?_, ?_, ?_, ?_, ?_, ?_⟩ <;> simp <;> omega

/-! ## Reads, ignored writes and COND -/

/-- The offsets with no register read as 0 (R166). -/
theorem readRegister_unused (s : State) : ∀ x ∈ [0x14#8, 0x18#8, 0x1C#8], s.readRegister x = some 0 := by
  simp [readRegister]

end State

/-- The writes that the window ignores (R166, R167). -/
theorem ofRegisterWrite_of_ignoredOffset {x : Byte} (ignored : ignoredOffset x = true) (value : Word) :
    Instr.ofRegisterWrite x value = some (.registerWriteIgnored x value) := by
  simp only [ignoredOffset, Bool.or_eq_true, beq_iff_eq] at ignored
  rcases ignored with (((rfl | rfl) | rfl) | rfl) | rfl <;> rfl

/-- A write to COND leaves the flags that were set and whose bits it writes as 0 (R153). -/
theorem condWrite_getLsbD (flags : BitVec 13) (value : Word) (i : Nat) :
    (flags &&& ~~~(value.setWidth 13)).getLsbD i = (flags.getLsbD i && !value.getLsbD i) := by
  by_cases lt : i < 13
  · simp [lt]
  · simp [BitVec.getLsbD_of_ge flags i (Nat.le_of_not_lt lt)]

/-! ## The statement -/

/-- Settles O4: STAT's fields are `State.stat_fields`, the ignored writes those of `ignoredOffset`, and the other reads
and writes the window's own equations. -/
theorem registerWindow : Obligations.RegisterWindow := by
  have unused : ∀ x ∈ [0x14#8, 0x18#8, 0x1C#8], ignoredOffset x = true := by decide
  have readOnly : ∀ x ∈ [0x00#8, 0x0C#8], ignoredOffset x = true := by decide
  intro s
  exact ⟨rfl, rfl, rfl, fun x mem => ⟨s.readRegister_unused x mem, ofRegisterWrite_of_ignoredOffset (unused x mem)⟩,
    ⟨s.stat, rfl, s.stat_fields⟩, fun _ => rfl, fun _ => rfl, fun _ => rfl,
    fun x mem => ofRegisterWrite_of_ignoredOffset (readOnly x mem), fun _ _ => rfl, rfl, fun _ => rfl,
    fun value => ⟨_, rfl, rfl, condWrite_getLsbD _ value⟩, rfl, rfl, rfl⟩

end Sys2Proof.Machine
end
